-- ==== Sys2Proof/Word.lean ====
section
/-! DEFINITION. The words the core's channels carry, and the two levels of a sample (`00_scope.md` rule R12). -/

namespace Sys2Proof

/-- A byte of the RX or TX data channel (rule R51). -/
abbrev Byte := BitVec 8

/-- A command word, a word of an event, a 32-bit state element (rules R74, R81, R24). -/
abbrev Word := BitVec 32

/-- `Level` of rule R12: LOW (0) or HIGH (1). -/
inductive Level where
  | low
  | high
deriving DecidableEq, Repr

/-- `not L` of rule R12. -/
def Level.flip : Level → Level
  | .low => .high
  | .high => .low

@[simp] theorem Level.flip_low : Level.low.flip = .high := rfl
@[simp] theorem Level.flip_high : Level.high.flip = .low := rfl
@[simp] theorem Level.flip_flip (l : Level) : l.flip.flip = l := by cases l <;> rfl

theorem Level.eq_flip_of_ne {a b : Level} (h : a ≠ b) : a = b.flip := by
  cases a <;> cases b <;> simp_all

end Sys2Proof
end

