-- ==== Sys2Proof/Config.lean ====
section
/-! DEFINITION. The configuration of a session (`00_scope.md` rule R6): the three parameters no source gives a value for. -/

namespace Sys2Proof

/-- `TXQ_DEPTH` of rule R6: a number of frames, or UNBOUNDED. -/
inductive QueueDepth where
  | unbounded
  | frames (n : Nat)
deriving DecidableEq, Repr

/-- The parameters of rule R6. `DEVICE_ID` is 20 bits by its type, which is its whole legal range;
the ranges of the other two are `Config.legal` (`WellFormed.lean`). -/
structure Config where
  /-- `FS`, samples per second. -/
  fs : Nat
  /-- `DEVICE_ID`, the transmitted identifier. -/
  deviceId : BitVec 20
  /-- `TXQ_DEPTH`, the feeder queue's capacity; UNBOUNDED unless the session says otherwise (rule R6). -/
  txqDepth : QueueDepth := .unbounded
deriving DecidableEq, Repr

end Sys2Proof
end

