-- ==== Sys2Proof/Machine/Timing.lean ====
section
/-! DEFINITION. The constants the source fixes and the ones derived from `FS` (`00_scope.md` rules R7, R8). -/

namespace Sys2Proof.Machine

/-- `HIGH_THRESHOLD` of rule R7, in power units (assumption 10: `INDEX.md` prints another number). -/
def highThreshold : Int := 3500

/-- `BITCNT` of rule R7. -/
def bitCount : Nat := 24

/-- `PULSECNT` of rule R7: 49. -/
def pulseCount : Nat := 2 * bitCount + 1

/-- `IVAL` of rule R8: samples per unit interval. -/
def ival (c : Config) : Nat := (32 * c.fs + 50000) / 100000

/-- `N_CLAMP` of rules R8 and R123: the least sample count that lasts longer than 2 ms. -/
def nClamp (c : Config) : Nat := c.fs / 500 + 1

/-- `FRAME_INTERVALS` of rule R8: 110. -/
def frameIntervals : Nat := 14 + 4 * bitCount

/-- `FRAME_LEN` of rule R8: bytes per rendered frame. -/
def frameLen (c : Config) : Nat := 2 * ival c * frameIntervals


end Sys2Proof.Machine
end

