-- ==== Sys2Proof/Machine/FrameEncoder.lean ====
section
/-! DEFINITION. ENC, the frame encoder (`43_frame_encoder.md`): the frame word, its schedule, its bytes and the
construction check. It has no state. -/

namespace Sys2Proof.Machine

/-- `FrameWord(cv)` of rule R170. -/
def frameWord (c : Config) (cv : BitVec 4) : BitVec 24 := c.deviceId ++ cv

/-- One span of a schedule: a level held for a number of unit intervals (rule R171). -/
structure Span where
  lvl : Level
  intervals : Nat
deriving DecidableEq, Repr

/-- The two spans of one bit (rule R171): '1' is a narrow mark, '0' a wide one. -/
def bitSpans : Bool → List Span
  | true => [⟨.high, 1⟩, ⟨.low, 3⟩]
  | false => [⟨.high, 3⟩, ⟨.low, 1⟩]

/-- `Schedule(W)` of rule R171: the preamble, then bit 23 down to bit 0. -/
def schedule (w : BitVec 24) : List Span :=
  [⟨.high, 1⟩, ⟨.low, 13⟩] ++ (List.range bitCount).flatMap fun k => bitSpans (w.getLsbD (23 - k))

/-- The byte of a transmitted sample, I and Q alike (rules R70, R172). -/
def levelByte : Level → Byte
  | .high => 0x7F#8
  | .low => 0x00#8

/-- The level of unit interval `t` of a frame (rule R172's closed form). -/
def intervalLevel (w : BitVec 24) (t : Nat) : Level :=
  if t = 0 then .high
  else if t ≤ 13 then .low
  else
    let j := 23 - (t - 14) / 4
    let ph := (t - 14) % 4
    if w.getLsbD j then (if ph = 0 then .high else .low) else (if ph ≤ 2 then .high else .low)

/-- `FRAME(cv)[b]` of rule R172. -/
def frameByte (c : Config) (cv : BitVec 4) (b : Nat) : Byte :=
  levelByte (intervalLevel (frameWord c cv) (b / 2 / ival c))

/-- The `m` bytes of `FRAME(cv)` from offset `off` on. -/
def frameSlice (c : Config) (cv : BitVec 4) (off m : Nat) : List Byte :=
  (List.range m).map fun j => frameByte c cv (off + j)

/-- `FRAME(cv)` of rule R172: the rendered sample output buffer. -/
def frame (c : Config) (cv : BitVec 4) : List Byte := frameSlice c cv 0 (frameLen c)

/-- Rule R172's rendering of a schedule: each span `(lvl, m)` becomes `m*IVAL` samples of two bytes. -/
def renderSchedule (c : Config) (spans : List Span) : List Byte :=
  spans.flatMap fun s => List.replicate (2 * (s.intervals * ival c)) (levelByte s.lvl)

/-- `computed` of rule R173: the final write offset of a frame's construction. -/
def constructedLength (c : Config) (w : BitVec 24) : Nat :=
  ((schedule w).map fun s => 2 * s.intervals * ival c).sum

end Sys2Proof.Machine
end

