-- ==== Sys2Proof/Syntax.lean ====
section
/-! DEFINITION. The operations of the core, one constructor per row of `opcode_table.json` (`30_encoding.md` rule R75),
and what a host issues for one: the operation with the data that belongs to it (rules R78, R79). -/

namespace Sys2Proof

/-- The seven operations (rules R211-R217). `LEN` is 24 bits and `CV` is 4 bits (rule R76); the types carry those
ranges, so every term is an operation some command word encodes. -/
inductive Instr where
  | nop
  | rstRx
  | rstTx
  | rstAll
  | rxBurst (len : BitVec 24)
  | txReq (cv : BitVec 4)
  | txPull (len : BitVec 24)
deriving DecidableEq, Repr

/-- One thing the host issues on the command channel: an operation with its RX data bytes (rule R78) and its
transmit buffer (rule R79), or a raw word (`.word` of rule R82), which brings no data. -/
inductive Command where
  | issue (i : Instr) (rxData txBuf : List Byte)
  | word (w : Word)
deriving DecidableEq, Repr

end Sys2Proof
end

