-- ==== Sys2Proof/WellFormed.lean ====
section
/-! DEFINITION. What is checked before the core's rules apply: the configuration's ranges (rule R6) and the data a
host must issue with an operation (rules R78, R79). -/

namespace Sys2Proof

/-- Rule R6: `TXQ_DEPTH` is an integer >= 1, or UNBOUNDED. -/
def QueueDepth.legal : QueueDepth → Bool
  | .unbounded => true
  | .frames n => decide (1 ≤ n)

/-- Rule R6: the legal configurations. A configuration outside these ranges has no run. -/
def Config.legal (c : Config) : Bool :=
  decide (1563 ≤ c.fs) && decide (c.fs ≤ 2147483647) && c.txqDepth.legal

/-- Rules R78 and R79: RX.BURST comes with exactly `LEN` bytes of RX data, TX.PULL with a host buffer of `LEN`
bytes, and nothing else comes with data. -/
def Command.wellFormed : Command → Bool
  | .issue (.rxBurst len) d b => decide (d.length = len.toNat) && b.isEmpty
  | .issue (.txPull len) d b => d.isEmpty && decide (b.length = len.toNat)
  | .issue .nop d b => d.isEmpty && b.isEmpty
  | .issue .rstRx d b => d.isEmpty && b.isEmpty
  | .issue .rstTx d b => d.isEmpty && b.isEmpty
  | .issue .rstAll d b => d.isEmpty && b.isEmpty
  | .issue (.txReq _) d b => d.isEmpty && b.isEmpty
  | .word _ => true

theorem Config.legal_iff (c : Config) :
    c.legal = true ↔ 1563 ≤ c.fs ∧ c.fs ≤ 2147483647 ∧ c.txqDepth ≠ .frames 0 := by
  unfold Config.legal
  cases h : c.txqDepth with
  | unbounded => simp [QueueDepth.legal]
  | frames n => simp [QueueDepth.legal, and_assoc, Nat.one_le_iff_ne_zero]

end Sys2Proof
end

