-- ==== Sys2Proof/Decode.lean ====
section
/-! DEFINITION. From command words to operations and back (`30_encoding.md` rules R74-R78), and the byte order of a
word on a byte transport (`20_memory.md` rule R54). -/

namespace Sys2Proof

/-- `CMD[31:28]`, `OPC` of rule R74. -/
def opcField (w : Word) : BitVec 4 := w.extractLsb' 28 4

/-- `CMD[23:0]`, `LEN` of rules R74 and R76. -/
def lenField (w : Word) : BitVec 24 := w.extractLsb' 0 24

/-- `CMD[3:0]`, `CV` of rules R74 and R76. -/
def cvField (w : Word) : BitVec 4 := w.extractLsb' 0 4

/-- Why a word is illegal, one reason per group of rule R77, and the byte form of a word that is not there whole. -/
inductive DecodeError where
  /-- OPC 0x0 with any other bit set. -/
  | nopBits
  /-- OPC 0x1 with SEL = 00 or any of `CMD[27:2]` set. -/
  | resetSelector
  /-- OPC 0x2 with any of `CMD[27:24]` set. -/
  | burstReserved
  /-- OPC 0x3 with any of `CMD[27:4]` set. -/
  | requestReserved
  /-- OPC 0x4 with any of `CMD[27:24]` set. -/
  | pullReserved
  /-- OPC 0x5 to 0xF. -/
  | unusedOpcode
  /-- Fewer than the four bytes of a word (rule R54; of the byte transport, not of the command channel). -/
  | truncatedWord
deriving DecidableEq, Repr

/-- The group of rule R77 a word that matches no row falls in. -/
def illegalReason (w : Word) : DecodeError :=
  if opcField w = 0x0#4 then .nopBits
  else if opcField w = 0x1#4 then .resetSelector
  else if opcField w = 0x2#4 then .burstReserved
  else if opcField w = 0x3#4 then .requestReserved
  else if opcField w = 0x4#4 then .pullReserved
  else .unusedOpcode

/-- Rule R75, in the order of rule R210's `Execute`: the operation of the first row the word matches. -/
def decode (w : Word) : Except DecodeError Instr :=
  if w = 0x00000000#32 then .ok .nop
  else if w = 0x10000001#32 then .ok .rstRx
  else if w = 0x10000002#32 then .ok .rstTx
  else if w = 0x10000003#32 then .ok .rstAll
  else if w &&& 0xFF000000#32 = 0x20000000#32 then .ok (.rxBurst (lenField w))
  else if w &&& 0xFFFFFFF0#32 = 0x30000000#32 then .ok (.txReq (cvField w))
  else if w &&& 0xFF000000#32 = 0x40000000#32 then .ok (.txPull (lenField w))
  else .error (illegalReason w)

/-- A word on a byte transport, least significant byte first (rule R54). -/
def wordBytes (w : Word) : List Byte :=
  [w.extractLsb' 0 8, w.extractLsb' 8 8, w.extractLsb' 16 8, w.extractLsb' 24 8]

/-- The word four bytes of a byte transport carry, the first the least significant (rule R54). -/
def wordOfBytes (b0 b1 b2 b3 : Byte) : Word := b3 ++ b2 ++ b1 ++ b0

/-- The decoder on a byte transport: the operation of the first four bytes, and the bytes after them. -/
def decodeBytes : List Byte → Except DecodeError (Instr × List Byte)
  | b0 :: b1 :: b2 :: b3 :: rest => (decode (wordOfBytes b0 b1 b2 b3)).map fun i => (i, rest)
  | _ => .error .truncatedWord

/-- The command word of an operation (rules R74-R76). -/
def encode : Instr → Word
  | .nop => 0x00000000#32
  | .rstRx => 0x10000001#32
  | .rstTx => 0x10000002#32
  | .rstAll => 0x10000003#32
  | .rxBurst len => 0x20#8 ++ len
  | .txReq cv => 0x3000000#28 ++ cv
  | .txPull len => 0x40#8 ++ len

/-- A command word as a byte transport carries it. -/
def encodeBytes (i : Instr) : List Byte := wordBytes (encode i)

/-- One row of `opcode_table.json`. -/
structure OpcodeRow where
  mnemonic : String
  mask : Word
  value : Word
deriving DecidableEq, Repr

/-- `(CMD & mask) = match` of rule R75. -/
def OpcodeRow.matchesWord (r : OpcodeRow) (w : Word) : Bool := decide (w &&& r.mask = r.value)

/-- Rule R75's table, row by row as `opcode_table.json` gives it. -/
def opcodeTable : List OpcodeRow :=
  [⟨"NOP", 0xFFFFFFFF#32, 0x00000000#32⟩,
   ⟨"RST.RX", 0xFFFFFFFF#32, 0x10000001#32⟩,
   ⟨"RST.TX", 0xFFFFFFFF#32, 0x10000002#32⟩,
   ⟨"RST.ALL", 0xFFFFFFFF#32, 0x10000003#32⟩,
   ⟨"RX.BURST", 0xFF000000#32, 0x20000000#32⟩,
   ⟨"TX.REQ", 0xFFFFFFF0#32, 0x30000000#32⟩,
   ⟨"TX.PULL", 0xFF000000#32, 0x40000000#32⟩]

/-- The mnemonic of an operation (rule R75). -/
def Instr.mnemonic : Instr → String
  | .nop => "NOP"
  | .rstRx => "RST.RX"
  | .rstTx => "RST.TX"
  | .rstAll => "RST.ALL"
  | .rxBurst _ => "RX.BURST"
  | .txReq _ => "TX.REQ"
  | .txPull _ => "TX.PULL"

/-- The host's question: the operation the decoder reads from an instruction of `nbits` bits whose value is `w`,
laid out as a byte transport carries it. Every operation is one 32-bit word (rule R78). -/
def decodeTableWord (nbits w : Nat) : Option Instr :=
  if nbits ≤ 32 ∧ w < 2 ^ 32 then
    match decodeBytes (wordBytes (BitVec.ofNat 32 w)) with
    | .ok (i, []) => some i
    | _ => none
  else none

end Sys2Proof
end

