-- ==== Sys2Proof/Machine/State.lean ====
section
/-! DEFINITION. The state of the core (`10_state.md` rule R33), the four channels to the host (`20_memory.md` rule
R51), the session's configuration, and what a step can answer besides a next state. -/

namespace Sys2Proof.Machine

/-- A finished run (rule R25): its level and its length in samples. -/
structure Pulse where
  lvl : Level
  n : Word
deriving DecidableEq, Repr

/-- The receive path's state: `rx_last`, `rx_run` and `pbuf` (rules R23-R25). -/
structure RxPath where
  last : Level
  run : Word
  pbuf : List Pulse
deriving DecidableEq, Repr

/-- The transmit path's state: `txq` and `tx_off` (rules R27, R28). -/
structure TxPath where
  txq : List (BitVec 4)
  off : Word
deriving DecidableEq, Repr

/-- The event records of rule R80, with their widths. -/
inductive Event where
  | decoded (id : BitVec 20) (cmd : BitVec 4)
  | inconclusive (n : BitVec 28)
  | mismatch (computed expected : Word)
  | malformed (len : BitVec 24)
  | illegal (word : Word)
  | txqFull (cmd : BitVec 4)
deriving DecidableEq, Repr

/-- What one TX.PULL returns (rule R79): the bytes it wrote, and the host's buffer as the host then finds it. -/
structure TxReply where
  /-- Bytes `0..k-1`. -/
  bytes : List Byte
  /-- The host's buffer after the pull: `bytes`, then the bytes the core did not write. -/
  buffer : List Byte
deriving DecidableEq, Repr

/-- The whole machine. `rx`, `tx` and `evs` are rule R33's elements; `cmds`, `rxData`, `txBufs` and `txData` are the
channels of rule R51; `cfg` is rule R6's parameters, which no operation writes (assumption 1). -/
structure State where
  /-- The session's configuration (rules R6, R22, R273). -/
  cfg : Config
  rx : RxPath
  tx : TxPath
  /-- `evs`, the event stream since power-on (rule R31). -/
  evs : List Event
  /-- Command words issued and not yet run, oldest first (rules R51, R60). -/
  cmds : List Word
  /-- RX data bytes not yet taken (rules R51, R78). -/
  rxData : List Byte
  /-- The host's pre-initialized transmit buffers, one per TX.PULL to come (rule R79). -/
  txBufs : List (List Byte)
  /-- What TX.PULL has returned, in order (rules R51, R79). -/
  txData : List TxReply
deriving DecidableEq, Repr

/-- The receive path's reset values (rules R33, R270). -/
def RxPath.reset : RxPath := { last := .low, run := 0#32, pbuf := [] }

/-- The transmit path's reset values (rules R33, R270). -/
def TxPath.reset : TxPath := { txq := [], off := 0#32 }

/-- Power-on: the start of a session with configuration `c` (rules R270, R271, R273), nothing issued yet. -/
def State.powerOn (c : Config) : State :=
  { cfg := c, rx := .reset, tx := .reset, evs := [], cmds := [], rxData := [], txBufs := [], txData := [] }

/-- The configuration `State.reset` holds. DESIGN CHOICE, unsafe (assumption 1): rule R6 gives no value for `FS`
and `DEVICE_ID`; these are the ones `95_test_vectors.md` uses. No statement rests on them. -/
def sessionConfig : Config := { fs := 100000, deviceId := 0x12345#20, txqDepth := .unbounded }

/-- The machine right after reset. -/
def State.reset : State := .powerOn sessionConfig

/-- No error stops the core (rule R240) and it has no traps (rule R251): there is no fault. -/
inductive Fault where
deriving DecidableEq, Repr

/-- Why a step has no answer. -/
inductive Refusal where
  /-- Raised by an arm of `exec` whose instruction has no meaning yet: none. Safe. -/
  | notModelled (mnemonic : String)
  /-- Raised by `step` when the configuration is outside rule R6's ranges: "refused by the model: it has no run".
  Safe. -/
  | illegalConfiguration
deriving DecidableEq, Repr

end Sys2Proof.Machine
end

