-- ==== Sys2Proof/Machine/Feeder.lean ====
section
/-! DEFINITION. FEED, the stream feeder (`44_stream_feeder.md`): it drains the queue byte by byte. -/

namespace Sys2Proof.Machine

/-- The loop of rule R190, on the queue, the cursor and the bytes still wanted: the bytes written, the queue left and
the cursor left. One turn per queued frame: a turn that does not finish the head frame has filled the output, so it
is the last (for a cursor beyond `FRAME_LEN`, which no run reaches, see assumption 8). -/
def feedQueue (c : Config) : List (BitVec 4) → Nat → Nat → List Byte × List (BitVec 4) × Nat
  | [], off, _ => ([], [], off)
  | cv :: rest, off, n =>
    if n = 0 then ([], cv :: rest, off)
    else
      let m := min (frameLen c - off) n
      let chunk := frameSlice c cv off m
      if off + m = frameLen c then
        let more := feedQueue c rest 0 (n - m)
        (chunk ++ more.1, more.2.1, more.2.2)
      else (chunk, cv :: rest, off + m)

/-- `FeedPull(n)` of rule R190: the bytes `0..k-1` it writes, and the transmit path afterwards. -/
def feedPull (c : Config) (n : Nat) (x : TxPath) : List Byte × TxPath :=
  let out := feedQueue c x.txq x.off.toNat n
  (out.1, { txq := out.2.1, off := BitVec.ofNat 32 out.2.2 })

end Sys2Proof.Machine
end

