-- ==== Sys2Proof/Machine/Operands.lean ====
section
/-! DEFINITION. The data operands: the samples of an RX.BURST (`20_memory.md` rules R52, R56, `00_scope.md` rule R12). -/

namespace Sys2Proof.Machine

/-- `s8(b)` of rule R12: the byte read as a signed two's-complement integer. -/
def s8 (b : Byte) : Int := if b.toNat < 128 then (b.toNat : Int) else (b.toNat : Int) - 256

/-- One sample `(I, Q)` of rules R14 and R52. -/
structure Sample where
  i : Int
  q : Int
deriving DecidableEq, Repr

/-- The samples of a burst's bytes, in order: the even byte is I, the odd byte is Q (rule R52). A last byte that has
no partner is no sample; RX.BURST refuses such data before it comes here (rule R103). -/
def samplesOf : List Byte → List Sample
  | bi :: bq :: rest => ⟨s8 bi, s8 bq⟩ :: samplesOf rest
  | _ => []

@[simp] theorem samplesOf_nil : samplesOf [] = [] := rfl
@[simp] theorem samplesOf_pair (bi bq : Byte) (rest : List Byte) :
    samplesOf (bi :: bq :: rest) = ⟨s8 bi, s8 bq⟩ :: samplesOf rest := rfl

end Sys2Proof.Machine
end

