-- ==== Sys2Proof/Machine/Envelope.lean ====
section
/-! DEFINITION. ENV, the envelope detector (`40_envelope_detector.md`): no state, one sample at a time. -/

namespace Sys2Proof.Machine

/-- `Power(i, q)` of rule R100, exact. -/
def power (i q : Int) : Int := i * i + q * q

/-- `Classify(i, q)` of rule R101. -/
def classify (i q : Int) : Level := if power i q > highThreshold then .high else .low

/-- The level of a sample (rule R102). -/
def Sample.level (p : Sample) : Level := classify p.i p.q

end Sys2Proof.Machine
end

