-- ==== Sys2Proof/Machine/Flags.lean ====
section
/-! DEFINITION. The one-bit outcomes the rules compute. The core has no flags (`10_state.md` rule R30); what its
operations decide on are the three duration predicates of `00_scope.md` rule R9, in their exact integer forms. -/

namespace Sys2Proof.Machine

/-- `LONG(n)` of rule R9: `n` samples last longer than 2 ms. -/
def isLong (c : Config) (n : Nat) : Bool := decide (500 * n > c.fs)

/-- `ONE(n)` of rule R9: a HIGH of `n` samples is in the bit '1' band, 0.25 to 0.43 ms, open. -/
def isOne (c : Config) (n : Nat) : Bool := decide (4000 * n > c.fs) && decide (100000 * n < 43 * c.fs)

/-- `ZERO(n)` of rule R9: a HIGH of `n` samples is in the bit '0' band, 0.9 to 1.15 ms, open. -/
def isZero (c : Config) (n : Nat) : Bool := decide (10000 * n > 9 * c.fs) && decide (20000 * n < 23 * c.fs)

/-- The bit a data HIGH of `n` samples stands for, if any (rule R146, step 5 of rule R141). -/
def bitOf (c : Config) (n : Nat) : Option Bool :=
  if isOne c n then some true else if isZero c n then some false else none

end Sys2Proof.Machine
end

