-- ==== Sys2Proof/Machine/FrameDecoder.lean ====
section
/-! DEFINITION. DEC, the frame decoder (`42_frame_decoder.md`): it shortens `pbuf` from its head and reports at most
one event per attempt. -/

namespace Sys2Proof.Machine

/-- Step 2 of rule R141 (rule R143): one leading HIGH is dropped. -/
def dropLeadingHigh : List Pulse → List Pulse
  | [] => []
  | p :: rest => if p.lvl = .high then rest else p :: rest

/-- Step 3 of rule R141 (rule R144): pairs are dropped until the head is LONG or at most one pulse is left. -/
def findSync (c : Config) : List Pulse → List Pulse
  | p :: q :: rest => if isLong c p.n.toNat then p :: q :: rest else findSync c rest
  | short => short

/-- The event of a decoded frame word (rule R147, step 6 of rule R141). -/
def decodedEvent (w : BitVec 24) : Event := .decoded (w.extractLsb' 4 20) (w.extractLsb' 0 4)

/-- The report of a data HIGH that fits neither band (rule R148); 28 bits hold `n` in every reachable state (rule
R80, assumption 7). -/
def inconclusiveEvent (n : Word) : Event := .inconclusive (n.setWidth 28)

/-- Step 5 of rule R141 (rules R146, R148) with `k` bits to go and the bits read so far in `w`: a LOW is discarded
unread, a HIGH is consumed and classified. Step 4 keeps the list long enough (rule R146), so the last arm is dead
(assumption 13). -/
def readBits (c : Config) : Nat → BitVec 24 → List Pulse → List Pulse × Option Event
  | 0, w, ps => (ps, some (decodedEvent w))
  | k + 1, w, _ :: h :: rest =>
    match bitOf c h.n.toNat with
    | some b => readBits c k (w.shiftConcat b) rest
    | none => (rest, some (inconclusiveEvent h.n))
  | _ + 1, _, short => (short, none)

/-- `DecodeAttempt()` of rule R141: what `pbuf` becomes, and the event, if any. -/
def decodeAttempt (c : Config) (ps : List Pulse) : List Pulse × Option Event :=
  if ps.length < pulseCount then (ps, none)
  else
    let synced := findSync c (dropLeadingHigh ps)
    if synced.length < pulseCount then (synced, none)
    else readBits c bitCount 0#24 synced

end Sys2Proof.Machine
end

