-- ==== Sys2Proof/Machine/Segmenter.lean ====
section
/-! DEFINITION. SEG, the pulse segmenter (`41_pulse_segmenter.md`): the receive path's step for one sample. -/

namespace Sys2Proof.Machine

/-- The same-level branch of rule R120 (rule R122): the run goes on, and a run longer than 2 ms discards every
buffered pulse and is clamped (rule R123). -/
def extendRun (c : Config) (r : RxPath) : RxPath :=
  let run := r.run + 1#32
  if isLong c run.toNat then { r with run := BitVec.ofNat 32 (nClamp c), pbuf := [] }
  else { r with run := run }

/-- The level-change branch of rule R120 (rule R121): the finished run is appended as a pulse, a decode attempt runs,
and the new run starts with the current sample. -/
def changeLevel (c : Config) (lvl : Level) (r : RxPath) : RxPath × Option Event :=
  let attempt := decodeAttempt c (r.pbuf ++ [{ lvl := r.last, n := r.run }])
  ({ last := lvl, run := 1#32, pbuf := attempt.1 }, attempt.2)

/-- `SampleStep(i, q)` of rule R120: the receive path afterwards and the event, if any. -/
def sampleStep (c : Config) (p : Sample) (r : RxPath) : RxPath × Option Event :=
  if p.level = r.last then (extendRun c r, none) else changeLevel c p.level r

/-- The samples of a burst, in order (rules R102, R215); the events in the order they arise (rule R60). -/
def receive (c : Config) : List Sample → RxPath → RxPath × List Event
  | [], r => (r, [])
  | p :: ps, r =>
    let one := sampleStep c p r
    let more := receive c ps one.1
    (more.1, one.2.toList ++ more.2)

end Sys2Proof.Machine
end

