-- ==== Sys2Proof/Machine/Ops.lean ====
section
/-! DEFINITION. The named operations on the state that the meanings share: reporting an event, resetting a path,
taking from and putting on the channels, fetching a command word. The core has no trap to take or to return from
(`60_exceptions.md` rules R240, R251): an error is an event, and that is `State.emit`. -/

namespace Sys2Proof.Machine

/-- `emit E` of rule R12: append to the event stream (rule R31). -/
def State.emit (s : State) (e : Event) : State := { s with evs := s.evs ++ [e] }

/-- The receive path's reset (rules R212, R270). -/
def State.resetRx (s : State) : State := { s with rx := .reset }

/-- The transmit path's reset (rules R213, R270). -/
def State.resetTx (s : State) : State := { s with tx := .reset }

/-- The next `n` bytes of the RX data channel (rule R215). -/
def State.rxTake (s : State) (n : Nat) : List Byte := s.rxData.take n

/-- The RX data channel after its next `n` bytes are taken (rule R215). -/
def State.rxDrop (s : State) (n : Nat) : State := { s with rxData := s.rxData.drop n }

/-- Whether the channel holds the `n` bytes that belong to an RX.BURST (rule R78). -/
def State.rxHolds (s : State) (n : Nat) : Bool := decide (n ≤ s.rxData.length)

/-- The receive path runs over a burst's bytes (rule R215). -/
def State.runReceive (s : State) (bytes : List Byte) : State :=
  let out := receive s.cfg (samplesOf bytes) s.rx
  { s with rx := out.1, evs := s.evs ++ out.2 }

/-- The host's buffer for this TX.PULL, as the host pre-initialized it (rule R79; assumption 4 where none is there). -/
def State.nextTxBuf (s : State) : List Byte := s.txBufs.headD []

/-- What TX.PULL returns (rules R79, R192): the bytes written, and the host's buffer with those bytes at its start
and the others as they were. -/
def State.txReturn (s : State) (bytes : List Byte) : State :=
  { s with
    txBufs := s.txBufs.tail
    txData := s.txData ++ [{ bytes := bytes, buffer := bytes ++ s.nextTxBuf.drop bytes.length }] }

/-- Whether the feeder queue is at `TXQ_DEPTH` (rules R216, R246). -/
def State.txqFull (s : State) : Bool :=
  match s.cfg.txqDepth with
  | .unbounded => false
  | .frames d => decide (s.tx.txq.length = d)

/-- A frame is appended to the tail of the feeder queue; the cursor stays (rules R193, R216). -/
def State.enqueue (s : State) (cv : BitVec 4) : State :=
  { s with tx := { s.tx with txq := s.tx.txq ++ [cv] } }

/-- The command word the core runs next, and the state without it; none while the core waits for one (rules R60,
R271). -/
def State.fetch (s : State) : Option (Word × State) :=
  match s.cmds with
  | [] => none
  | w :: ws => some (w, { s with cmds := ws })

/-- Whether the data an operation takes is on its channel (rule R78). DESIGN CHOICE (assumption 3): an RX.BURST whose
bytes are not all there waits for them. -/
def State.operandsHere (s : State) : Instr → Bool
  | .rxBurst len => s.rxHolds len.toNat
  | .nop => true
  | .rstRx => true
  | .rstTx => true
  | .rstAll => true
  | .txReq _ => true
  | .txPull _ => true

/-- `Illegal(CMD)` of rule R218: the word is reported and nothing else happens. -/
def State.refuseWord (s : State) (w : Word) : State := s.emit (.illegal w)

/-- Rule R6: whether the model has a run with this state's configuration. -/
def State.hasRun (s : State) : Bool := s.cfg.legal

end Sys2Proof.Machine
end

