-- ==== Sys2Proof/Machine/Control.lean ====
section
/-! DEFINITION. The meanings of NOP and the three resets (`45_operations.md` rules R211-R214). -/

namespace Sys2Proof.Machine

/-- NOP, rule R211. -/
def execNop (s : State) : Host.Outcome State Fault Refusal := .next s

/-- RST.RX, rule R212. -/
def execRstRx (s : State) : Host.Outcome State Fault Refusal := .next s.resetRx

/-- RST.TX, rule R213. -/
def execRstTx (s : State) : Host.Outcome State Fault Refusal := .next s.resetTx

/-- RST.ALL, rule R214: RST.RX, then RST.TX. -/
def execRstAll (s : State) : Host.Outcome State Fault Refusal := .next s.resetRx.resetTx

end Sys2Proof.Machine
end

