-- ==== Sys2Proof/Machine/Receive.lean ====
section
/-! DEFINITION. The meaning of RX.BURST (`45_operations.md` rule R215). -/

namespace Sys2Proof.Machine

/-- RX.BURST, rule R215: its `LEN` bytes are always taken; an odd `LEN` is refused with MALFORMED and changes nothing
else (rule R242); otherwise the samples run in order. While the bytes are not all on the channel nothing happens yet
(assumption 3). -/
def execRxBurst (len : BitVec 24) (s : State) : Host.Outcome State Fault Refusal :=
  if s.rxHolds len.toNat then
    let s' := s.rxDrop len.toNat
    if len.toNat % 2 = 1 then .next (s'.emit (.malformed len))
    else .next (s'.runReceive (s.rxTake len.toNat))
  else .next s

end Sys2Proof.Machine
end

