-- ==== Sys2Proof/Machine/Transmit.lean ====
section
/-! DEFINITION. The meanings of TX.REQ and TX.PULL (`45_operations.md` rules R216, R217). -/

namespace Sys2Proof.Machine

/-- TX.REQ, rule R216: a full queue is reported first (rule R248); then the frame's construction check (rule R173);
then the frame is queued. -/
def execTxReq (cv : BitVec 4) (s : State) : Host.Outcome State Fault Refusal :=
  if s.txqFull then .next (s.emit (.txqFull cv))
  else
    let computed := constructedLength s.cfg (frameWord s.cfg cv)
    let expected := frameLen s.cfg
    if computed = expected then .next (s.enqueue cv)
    else .next (s.emit (.mismatch (BitVec.ofNat 32 computed) (BitVec.ofNat 32 expected)))

/-- TX.PULL, rule R217: `FeedPull(LEN)`, and its bytes are returned. -/
def execTxPull (len : BitVec 24) (s : State) : Host.Outcome State Fault Refusal :=
  let out := feedPull s.cfg len.toNat s.tx
  .next ({ s with tx := out.2 }.txReturn out.1)

end Sys2Proof.Machine
end

