-- ==== Sys2Proof/Machine/Dispatch.lean ====
section
/-! DEFINITION. One arm per operation (`45_operations.md` rule R210). -/

namespace Sys2Proof.Machine

/-- What the operation `i` does at the state `s`. -/
def exec (i : Instr) (s : State) : Host.Outcome State Fault Refusal :=
  match i with
  | .nop => Sys2Proof.Machine.execNop s
  | .rstRx => Sys2Proof.Machine.execRstRx s
  | .rstTx => Sys2Proof.Machine.execRstTx s
  | .rstAll => Sys2Proof.Machine.execRstAll s
  | .rxBurst len => Sys2Proof.Machine.execRxBurst len s
  | .txReq cv => Sys2Proof.Machine.execTxReq cv s
  | .txPull len => Sys2Proof.Machine.execTxPull len s

end Sys2Proof.Machine
end

