-- ==== Sys2Proof/Machine/Step.lean ====
section
/-! DEFINITION. One step of the core: the next command word is run whole (`45_operations.md` rule R210, `00_scope.md`
rule R13). -/

namespace Sys2Proof.Machine

/-- One step. With an illegal configuration there is no run (rule R6). With no command word the core waits (rule
R271), and so it does while an operation's data is not on its channel (assumption 3). A word that encodes no operation
is reported (rule R218). -/
def step (s : State) : Host.Outcome State Fault Refusal :=
  if s.hasRun then
    match s.fetch with
    | none => .next s
    | some (w, s') =>
      match decode w with
      | .ok i => if s'.operandsHere i then exec i s' else .next s
      | .error _ => .next (s'.refuseWord w)
  else .refused .illegalConfiguration

/-- The data a command word needs so that the step runs it at once: bytes of zeros on the RX data channel for an
RX.BURST, a host buffer of zeros for a TX.PULL (rules R78, R79). -/
def State.withOperands (s : State) (w : Word) : State :=
  match decode w with
  | .ok (.rxBurst len) => { s with rxData := List.replicate len.toNat 0x00#8 ++ s.rxData }
  | .ok (.txPull len) => { s with txBufs := List.replicate len.toNat 0x00#8 :: s.txBufs }
  | _ => s

/-- `s` with the command word `w` issued at the head of the command channel, its data with it (assumption 17). -/
def State.withFetchWord (s : State) (_nbits w : Nat) : State :=
  let word := BitVec.ofNat 32 w
  { s.withOperands word with cmds := word :: s.cmds }

end Sys2Proof.Machine
end

