-- ==== Sys2Proof/Machine/EventWords.lean ====
section
/-! DEFINITION. What the core sends on a word or byte transport (`30_encoding.md` rules R79, R81), and what the host
reports of an event on its console (`45_operations.md` rule R221). -/

namespace Sys2Proof.Machine

/-- The words of an event record, the tag in bits [31:28] of the first (rule R81). -/
def Event.words : Event → List Word
  | .decoded id cmd => [0x10#8 ++ id ++ cmd]
  | .inconclusive n => [0x2#4 ++ n]
  | .mismatch computed expected => [0x30000000#32, computed, expected]
  | .malformed len => [0x40#8 ++ len]
  | .illegal word => [0x50000000#32, word]
  | .txqFull cmd => [0x6000000#28 ++ cmd]

/-- The event stream on a word transport, in order (rules R60, R81). -/
def eventStream (evs : List Event) : List Word := evs.flatMap Event.words

/-- The count `k` TX.PULL returns, a 32-bit word (rule R79). -/
def TxReply.count (r : TxReply) : Word := BitVec.ofNat 32 r.bytes.length

/-- TX.PULL's answer on a byte transport: `k` as a word, then the `k` bytes (rules R54, R79). -/
def TxReply.transport (r : TxReply) : List Byte := wordBytes r.count ++ r.bytes

/-- What the host's console says of an event, before it chooses a text for it (rule R221, assumption 16). -/
inductive ConsoleReport where
  /-- Two hex strings. -/
  | code (identifier : BitVec 20) (command : BitVec 4)
  /-- The tag `inconclusive` and the failing duration in milliseconds. -/
  | inconclusive (ms : Rat)
  /-- The tag `mismatch`, the computed and the expected length. -/
  | mismatch (computed expected : Nat)
deriving DecidableEq, Repr

/-- Rule R221: the source prints nothing for MALFORMED, ILLEGAL and TXQ_FULL. -/
def Event.console (c : Config) : Event → Option ConsoleReport
  | .decoded id cmd => some (.code id cmd)
  | .inconclusive n => some (.inconclusive ((n.toNat * 1000 : Nat) / (c.fs : Rat)))
  | .mismatch computed expected => some (.mismatch computed.toNat expected.toNat)
  | .malformed _ => none
  | .illegal _ => none
  | .txqFull _ => none

end Sys2Proof.Machine
end

