-- ==== Sys2Proof/Machine/HostAdapter.lean ====
section
/-! DEFINITION. The host at the core's interface (`45_operations.md` rules R220-R223): issuing commands, and the
operations an input line or a hardware callback becomes. -/

namespace Sys2Proof.Machine

/-- The host issues a command: its word goes to the end of the command channel and its data to the end of the data
channels (rules R51, R60, R78, R79). -/
def State.issue (s : State) : Command → State
  | .issue i rxData txBuf =>
    { s with
      cmds := s.cmds ++ [encode i]
      rxData := s.rxData ++ rxData
      txBufs := match i with
        | .txPull _ => s.txBufs ++ [txBuf]
        | .nop => s.txBufs
        | .rstRx => s.txBufs
        | .rstTx => s.txBufs
        | .rstAll => s.txBufs
        | .rxBurst _ => s.txBufs
        | .txReq _ => s.txBufs }
  | .word w => { s with cmds := s.cmds ++ [w] }

/-- The value of one character of `[0-9A-Fa-f]` (rule R220). -/
def hexDigit (ch : Char) : Option (BitVec 4) :=
  let n := ch.toNat
  if 48 ≤ n ∧ n ≤ 57 then some (BitVec.ofNat 4 (n - 48))
  else if 65 ≤ n ∧ n ≤ 70 then some (BitVec.ofNat 4 (n - 55))
  else if 97 ≤ n ∧ n ≤ 102 then some (BitVec.ofNat 4 (n - 87))
  else none

/-- A line without its terminator, LF or CR LF (rule R220). -/
def stripTerminator (line : List Char) : List Char :=
  match line.reverse with
  | '\n' :: '\r' :: rest => rest.reverse
  | '\n' :: rest => rest.reverse
  | _ => line

/-- The transmit request of an input line, if it is exactly one hex digit (rules R220, R247). -/
def lineRequest (line : List Char) : Option (BitVec 4) :=
  match stripTerminator line with
  | [ch] => hexDigit ch
  | _ => none

/-- Interactive input (rule R220): one TX.REQ, or nothing. -/
def inputLine (line : List Char) : List Command :=
  match lineRequest line with
  | some cv => [.issue (.txReq cv) [] []]
  | none => []

/-- The longest burst or pull one command word can name (rule R76). -/
def maxLen : Nat := 16777215

/-- A list cut into parts of `size`, the last one shorter; `fuel` bounds the number of parts. -/
def cutInto (size : Nat) : Nat → List Byte → List (List Byte)
  | 0, _ => []
  | fuel + 1, l => if l.length ≤ size then [l] else l.take size :: cutInto size fuel (l.drop size)

/-- RX.BURST with these bytes (rule R78). -/
def burstCommand (part : List Byte) : Command := .issue (.rxBurst (BitVec.ofNat 24 part.length)) part []

/-- TX.PULL into this pre-initialized buffer (rule R79). -/
def pullCommand (part : List Byte) : Command := .issue (.txPull (BitVec.ofNat 24 part.length)) [] part

/-- A receive callback (rule R222): one RX.BURST, or several split at even offsets when the buffer is longer than one
word can name. -/
def receiveCallback (buffer : List Byte) : List Command :=
  if buffer.length ≤ maxLen then [burstCommand buffer]
  else (cutInto (maxLen - 1) buffer.length buffer).map burstCommand

/-- A transmit callback (rule R223): TX.PULLs that cover consecutive parts of the buffer. -/
def transmitCallback (buffer : List Byte) : List Command :=
  (cutInto maxLen (buffer.length + 1) buffer).map pullCommand

/-- The hardware buffer a transmit callback leaves, from the replies to its pulls (rule R223). -/
def filledBuffer (replies : List TxReply) : List Byte := replies.flatMap TxReply.buffer

end Sys2Proof.Machine
end

