-- ==== Sys2Proof/Machine/Script.lean ====
section
/-! DEFINITION. Command scripts (`30_encoding.md` rules R82, R83): their lines as data, what the assembler makes of
them, the pseudo-instructions, and the text form read from characters (assumption 15). -/

namespace Sys2Proof.Machine

/-- One item of an RX.BURST's data list (rule R82). -/
inductive DataItem where
  | byte (b : Byte)
  | high (n : Nat)
  | low (n : Nat)
  | samples (i q : Int) (n : Nat)
  | frame (v : BitVec 4)
deriving DecidableEq, Repr

/-- One script line (rule R82), the pseudo-instructions of rule R83 last. -/
inductive ScriptLine where
  | nop
  | rstRx
  | rstTx
  | rstAll
  | rxBurst (data : List DataItem)
  | txReq (v : BitVec 4)
  | txPull (count : Nat) (fill : Byte)
  | word (w : Word)
  | rst
  | txSend (v : BitVec 4)
  | rxSilence (n : Nat)
deriving DecidableEq, Repr

/-- `n` copies of a two-byte sample. -/
def sampleBytes (bi bq : Byte) (n : Nat) : List Byte := (List.replicate n [bi, bq]).flatten

/-- The bytes an item contributes (rule R82). -/
def DataItem.bytes (c : Config) : DataItem → List Byte
  | .byte b => [b]
  | .high n => sampleBytes 0x7F#8 0x7F#8 n
  | .low n => sampleBytes 0x00#8 0x00#8 n
  | .samples i q n => sampleBytes (BitVec.ofInt 8 i) (BitVec.ofInt 8 q) n
  | .frame v => Machine.frame c v

/-- The expansions of rule R83; any other line stands for itself. -/
def ScriptLine.expand : ScriptLine → List ScriptLine
  | .rst => [.rstAll]
  | .txSend v => [.txReq v, .txReq v]
  | .rxSilence n => [.rxBurst [.low n]]
  | .nop => [.nop]
  | .rstRx => [.rstRx]
  | .rstTx => [.rstTx]
  | .rstAll => [.rstAll]
  | .rxBurst data => [.rxBurst data]
  | .txReq v => [.txReq v]
  | .txPull count fill => [.txPull count fill]
  | .word w => [.word w]

/-- The command of a line that is no pseudo-instruction; none where the assembler refuses it (rule R82). -/
def ScriptLine.command (c : Config) : ScriptLine → Option Command
  | .nop => some (.issue .nop [] [])
  | .rstRx => some (.issue .rstRx [] [])
  | .rstTx => some (.issue .rstTx [] [])
  | .rstAll => some (.issue .rstAll [] [])
  | .rxBurst data =>
    let bytes := data.flatMap (DataItem.bytes c)
    if bytes.length ≤ maxLen then some (burstCommand bytes) else none
  | .txReq v => some (.issue (.txReq v) [] [])
  | .txPull count fill => if count ≤ maxLen then some (pullCommand (List.replicate count fill)) else none
  | .word w => some (.word w)
  | .rst => none
  | .txSend _ => none
  | .rxSilence _ => none

/-- The commands of a script, in order; none where the assembler refuses a line. -/
def assemble (c : Config) (script : List ScriptLine) : Option (List Command) :=
  (script.flatMap ScriptLine.expand).mapM (ScriptLine.command c)

/-! The text form. -/

/-- A hex digit of a script: `0-9`, `A-F` (rule R82). -/
def upperHex (ch : Char) : Option (BitVec 4) := if ch.toNat < 97 then hexDigit ch else none

/-- A decimal digit. -/
def decimalDigit (ch : Char) : Option Nat := if 48 ≤ ch.toNat ∧ ch.toNat ≤ 57 then some (ch.toNat - 48) else none

/-- Decimal digits read on from `acc`. -/
def decimalFrom : Nat → List Char → Option Nat
  | acc, [] => some acc
  | acc, ch :: rest => (decimalDigit ch).bind fun d => decimalFrom (10 * acc + d) rest

/-- A decimal count: at least one digit. That every count is decimal is assumption 15. -/
def parseDecimal : List Char → Option Nat
  | [] => none
  | chars => decimalFrom 0 chars

/-- A signed decimal sample value, -128 to 127, no `+` sign (rules R70, R82; assumption 15). -/
def parseSample : List Char → Option Int
  | '-' :: digits => (parseDecimal digits).bind fun n => if n ≤ 128 then some (-(n : Int)) else none
  | digits => (parseDecimal digits).bind fun n => if n ≤ 127 then some (n : Int) else none

/-- A two-digit hex byte. -/
def parseByte : List Char → Option Byte
  | [a, b] => (upperHex a).bind fun hi => (upperHex b).map fun lo => hi ++ lo
  | _ => none

/-- Hex digits read on from `acc`. -/
def hexFrom : Word → List Char → Option Word
  | acc, [] => some acc
  | acc, ch :: rest => (upperHex ch).bind fun d => hexFrom ((acc <<< 4) ||| d.setWidth 32) rest

/-- A 32-bit hex word: one to eight digits, `0x` before them or not. -/
def parseWord : List Char → Option Word
  | '0' :: 'x' :: digits => if digits ≠ [] ∧ digits.length ≤ 8 then hexFrom 0#32 digits else none
  | digits => if digits ≠ [] ∧ digits.length ≤ 8 then hexFrom 0#32 digits else none

/-- One item of a data list (rule R82). -/
def parseItem : List Char → Option DataItem
  | 'H' :: '*' :: n => (parseDecimal n).map .high
  | 'L' :: '*' :: n => (parseDecimal n).map .low
  | 'S' :: '(' :: rest =>
    let i := rest.takeWhile (· ≠ ',')
    let afterI := (rest.dropWhile (· ≠ ',')).drop 1
    let q := afterI.takeWhile (· ≠ ')')
    match afterI.dropWhile (· ≠ ')') with
    | ')' :: '*' :: n =>
      (parseSample i).bind fun i => (parseSample q).bind fun q => (parseDecimal n).map fun n => .samples i q n
    | _ => none
  | ['F', 'R', 'A', 'M', 'E', '(', v, ')'] => (upperHex v).map .frame
  | chars => (parseByte chars).map .byte

/-- A one-digit operand of TX.REQ or TX.SEND (rule R82). -/
def parseRequest : List (List Char) → Option (BitVec 4)
  | [[v]] => upperHex v
  | _ => none

/-- The operands of TX.PULL: a count, and the fill byte, `00` where there is none (rule R82). DESIGN CHOICE
(assumption 15): the fill byte is exactly two hex digits, as a data item's byte is; rule R82 gives it no form. -/
def parsePull : List (List Char) → Option ScriptLine
  | [n] => (parseDecimal n).map fun n => .txPull n 0x00#8
  | [n, fill] => (parseDecimal n).bind fun n => (parseByte fill).map fun b => .txPull n b
  | _ => none

/-- A line with no operand. -/
def parseBare (line : ScriptLine) : List (List Char) → Option ScriptLine
  | [] => some line
  | _ => none

/-- The only operand of a line. -/
def single : List (List Char) → Option (List Char)
  | [t] => some t
  | _ => none

/-- A line from its words, the mnemonic first, in upper case (rule R82). -/
def parseTokens : List (List Char) → Option ScriptLine
  | ['N', 'O', 'P'] :: args => parseBare .nop args
  | ['R', 'S', 'T', '.', 'R', 'X'] :: args => parseBare .rstRx args
  | ['R', 'S', 'T', '.', 'T', 'X'] :: args => parseBare .rstTx args
  | ['R', 'S', 'T', '.', 'A', 'L', 'L'] :: args => parseBare .rstAll args
  | ['R', 'S', 'T'] :: args => parseBare .rst args
  | ['R', 'X', '.', 'B', 'U', 'R', 'S', 'T'] :: args => (args.mapM parseItem).map .rxBurst
  | ['T', 'X', '.', 'R', 'E', 'Q'] :: args => (parseRequest args).map .txReq
  | ['T', 'X', '.', 'S', 'E', 'N', 'D'] :: args => (parseRequest args).map .txSend
  | ['T', 'X', '.', 'P', 'U', 'L', 'L'] :: args => parsePull args
  | ['R', 'X', '.', 'S', 'I', 'L', 'E', 'N', 'C', 'E'] :: args =>
    ((single args).bind parseDecimal).map .rxSilence
  | ['.', 'w', 'o', 'r', 'd'] :: args => ((single args).bind parseWord).map .word
  | _ => none

/-- White space inside a line. -/
def isBlank (ch : Char) : Bool := ch == ' ' || ch == '\t' || ch == '\r'

/-- The words of a line; `word` is the one being read, its last character first. -/
def tokensFrom : List Char → List Char → List (List Char)
  | word, [] => if word.isEmpty then [] else [word.reverse]
  | word, ch :: rest =>
    if isBlank ch then (if word.isEmpty then tokensFrom [] rest else word.reverse :: tokensFrom [] rest)
    else tokensFrom (ch :: word) rest

/-- The lines of a text; `line` is the one being read, its last character first. -/
def linesFrom : List Char → List Char → List (List Char)
  | line, [] => if line.isEmpty then [] else [line.reverse]
  | line, ch :: rest => if ch == '\n' then line.reverse :: linesFrom [] rest else linesFrom (ch :: line) rest

/-- One text line after those read, the newest first: a comment is dropped, an empty line adds nothing, a line that
begins with white space continues the data list of the line before it (rule R82). -/
def addLine (done : List ScriptLine) (text : List Char) : Option (List ScriptLine) :=
  let code := text.takeWhile (· ≠ ';')
  match tokensFrom [] code with
  | [] => some done
  | tokens =>
    if (code.head?.map isBlank).getD false then
      match done with
      | .rxBurst data :: earlier => (tokens.mapM parseItem).map fun more => .rxBurst (data ++ more) :: earlier
      | _ => none
    else (parseTokens tokens).map fun line => line :: done

/-- A script from its text; none where a line is no line of rule R82 or R83. -/
def parseScript (text : List Char) : Option (List ScriptLine) :=
  ((linesFrom [] text).foldlM addLine []).map List.reverse

end Sys2Proof.Machine
end

