-- ==== Sys2Proof/Safety.lean ====
section
/-! DEFINITION. The terms the claims use: the invariants of `10_state.md` rules R24, R26 and R29, runs of operations,
what the host can do between steps, and the bytes still to be sent. -/

namespace Sys2Proof.Machine

/-- The state of an answer that is a next state. -/
def after : Host.Outcome State Fault Refusal → Option State
  | .next s => some s
  | .fault _ => none
  | .refused _ => none

/-- One answer after another: `f` runs at the next state, and a stop stays a stop. -/
def andThen (o : Host.Outcome State Fault Refusal) (f : State → Host.Outcome State Fault Refusal) :
    Host.Outcome State Fault Refusal :=
  match o with
  | .next s => f s
  | .fault r => .fault r
  | .refused r => .refused r

/-- Operations run one after the other, each whole (rules R13, R60). -/
def execAll : List Instr → State → Host.Outcome State Fault Refusal
  | [], s => .next s
  | i :: is, s => andThen (exec i s) (execAll is)

/-- Rule R26 item 1: levels alternate along the buffer. -/
def alternates : List Pulse → Bool
  | p :: q :: rest => decide (q.lvl = p.lvl.flip) && alternates (q :: rest)
  | _ => true

/-- Rules R24 and R26: what holds of the receive path between samples. The clauses, in order: levels alternate; the
last pulse's level is not that of the current run; at most 48 pulses; only the pulse at index 0 can be LONG or have
`n = 0`; no `n` and no run exceeds `N_CLAMP`; a pulse with `n = 0` is LOW (rule R126); a LONG run has an empty buffer
behind it (rule R127); a run of no sample is the reset one (rule R126). -/
structure RxInv (c : Config) (r : RxPath) : Prop where
  levelsAlternate : alternates r.pbuf = true
  lastLevel : ∀ p, r.pbuf.getLast? = some p → p.lvl = r.last.flip
  lengthBound : r.pbuf.length ≤ 48
  tailNotLong : ∀ p ∈ r.pbuf.tail, isLong c p.n.toNat = false
  tailNotEmpty : ∀ p ∈ r.pbuf.tail, p.n ≠ 0#32
  pulseBound : ∀ p ∈ r.pbuf, p.n.toNat ≤ nClamp c
  runBound : r.run.toNat ≤ nClamp c
  emptyPulseLow : ∀ p ∈ r.pbuf, p.n = 0#32 → p.lvl = .low
  longRunEmpties : isLong c r.run.toNat = true → r.pbuf = []
  emptyRunReset : r.run = 0#32 → r.last = .low ∧ r.pbuf = []

/-- Rule R29 and rule R27's bound: the cursor is inside the head frame, and the queue is within `TXQ_DEPTH`. -/
structure TxInv (c : Config) (x : TxPath) : Prop where
  offZeroWhenEmpty : x.txq = [] → x.off = 0#32
  offInsideFrame : x.txq ≠ [] → x.off.toNat < frameLen c
  depthBound : ∀ d, c.txqDepth = .frames d → x.txq.length ≤ d

/-- Both paths' invariants. -/
structure Inv (s : State) : Prop where
  rx : RxInv s.cfg s.rx
  tx : TxInv s.cfg s.tx

/-- A state a session reaches: power-on with a legal configuration, then steps of the core and commands of the host,
in any order. -/
inductive Reachable : State → Prop where
  | powerOn (c : Config) (h : c.legal = true) : Reachable (.powerOn c)
  | step (s t : State) (hs : Reachable s) (h : Machine.step s = .next t) : Reachable t
  | issue (s : State) (cmd : Command) (hs : Reachable s) : Reachable (s.issue cmd)

/-- The bytes of the queued frames not yet sent (rules R193, R195). -/
def pendingBytes (c : Config) (x : TxPath) : List Byte := (x.txq.flatMap (frame c)).drop x.off.toNat

/-- The frames the accepted requests of a list of operations stand for, in order, when the queue never fills (rule
R194). -/
def requestedBytes (c : Config) : List Instr → List Byte
  | [] => []
  | .txReq cv :: is => frame c cv ++ requestedBytes c is
  | .nop :: is => requestedBytes c is
  | .rstRx :: is => requestedBytes c is
  | .rstTx :: is => requestedBytes c is
  | .rstAll :: is => requestedBytes c is
  | .rxBurst _ :: is => requestedBytes c is
  | .txPull _ :: is => requestedBytes c is

/-- Whether an operation resets the transmit path (rule R270). -/
def resetsTx : Instr → Bool
  | .rstTx => true
  | .rstAll => true
  | .nop => false
  | .rstRx => false
  | .rxBurst _ => false
  | .txReq _ => false
  | .txPull _ => false

/-- The operations of the receive path (rule R219). -/
def isRxOp : Instr → Bool
  | .rstRx => true
  | .rxBurst _ => true
  | .nop => false
  | .rstTx => false
  | .rstAll => false
  | .txReq _ => false
  | .txPull _ => false

/-- The operations of the transmit path (rule R219). -/
def isTxOp : Instr → Bool
  | .rstTx => true
  | .txReq _ => true
  | .txPull _ => true
  | .nop => false
  | .rstRx => false
  | .rstAll => false
  | .rxBurst _ => false

/-- The bytes of `n` samples of one level as the transmitter sends them (rules R70, R82). -/
def levelSamples (l : Level) (n : Nat) : List Byte := sampleBytes (levelByte l) (levelByte l) n

/-- The samples of the last LOW run of `FRAME(v)` (rule R176's `r`). -/
def lastLowRun (c : Config) (v : BitVec 4) : Nat := if v.getLsbD 0 then 3 * ival c else ival c

/-- The `j`-th bit DEC decodes, the most significant first (rule R147): `W[23-j]`. -/
def wordBit (w : BitVec 24) (j : Nat) : Bool := w.getLsbD (23 - j)

end Sys2Proof.Machine
end

