-- ==== Sys2Proof/Certificates/Slice0/Obligations.lean ====
section
/-! DEFINITION. The statements about the core, for the provers. Each says what a rule of the spec says; none rests on
the values `State.reset` holds for `FS` and `DEVICE_ID` (assumption 1): the configuration is that of the state, or a
quantified one. -/

open Sys2Proof Sys2Proof.Machine

/-! ## The step -/

/-- From rule R210: a step runs the decoded operation. The word leaves the command channel. An RX.BURST runs once its
bytes are on the RX data channel (rule R78; waiting for them is the model's choice, assumption 3). -/
def Obligations.StepRunsDecodedOperation : Prop :=
  ∀ (s : State) (w : Word) (ws : List Word) (i : Instr),
    s.cfg.legal = true → s.cmds = w :: ws → decode w = .ok i →
    (∀ len, i = .rxBurst len → len.toNat ≤ s.rxData.length) →
    step s = exec i { s with cmds := ws }

/-- From rule R271: with no command word the core waits. The second clause is the model's choice (assumption 3): an
RX.BURST whose bytes are not all on the channel is left where it is. -/
def Obligations.StepWaitsForItsInputs : Prop :=
  (∀ s : State, s.cfg.legal = true → s.cmds = [] → step s = .next s) ∧
  ∀ (s : State) (w : Word) (ws : List Word) (len : BitVec 24),
    s.cfg.legal = true → s.cmds = w :: ws → decode w = .ok (.rxBurst len) → s.rxData.length < len.toNat →
    step s = .next s

/-- Rule R245 (and R218): a word that matches no row is reported, and nothing else happens: no state element changes,
no data byte is taken or sent, and the next word is the next to be run. -/
def Obligations.IllegalWordIsReported : Prop :=
  ∀ (s : State) (w : Word) (ws : List Word),
    s.cfg.legal = true → s.cmds = w :: ws → (∀ r ∈ opcodeTable, r.matchesWord w = false) →
    step s = .next { s with cmds := ws, evs := s.evs ++ [.illegal w] }

/-- From rule R6: a configuration outside the legal ranges has no run, whatever else the state holds. -/
def Obligations.IllegalConfigurationHasNoRun : Prop :=
  ∀ s : State, (s.cfg.fs < 1563 ∨ 2147483647 < s.cfg.fs ∨ s.cfg.txqDepth = .frames 0) →
    step s = .refused .illegalConfiguration

/-- From rule R240: every step of a session has a next state, and so has every operation. -/
def Obligations.NoErrorStopsTheCore : Prop :=
  (∀ s : State, s.cfg.legal = true → ∃ t, step s = .next t) ∧ ∀ (i : Instr) (s : State), ∃ t, exec i s = .next t

/-- From rules R31, R22 and R273: a step only appends to the event stream and never writes the configuration. The last
clause is the model's choice (assumption 2): what TX.PULL returned (rules R79 and R217) stays in State, so a step only
appends to the TX data. -/
def Obligations.StepOnlyAppendsReports : Prop :=
  ∀ s t : State, step s = .next t →
    t.cfg = s.cfg ∧ (∃ es, t.evs = s.evs ++ es) ∧ ∃ rs, t.txData = s.txData ++ rs

/-- The host issues an operation with its data to a core that has run every earlier command: the next step runs it
(rules R78, R79, R210). -/
def Obligations.IssuedOperationRunsNext : Prop :=
  ∀ (s : State) (i : Instr) (d b : List Byte),
    s.cfg.legal = true → s.cmds = [] → (Command.issue i d b).wellFormed = true →
    step (s.issue (.issue i d b)) = exec i { s.issue (.issue i d b) with cmds := [] }

/-! ## Encodings -/

/-- From rules R74-R76 and R54: decoding an encoded operation gives it back, on the command channel and on a byte
transport, and every word that decodes is the encoding of what it decodes to. -/
def Obligations.DecodeAndEncodeAgree : Prop :=
  (∀ i : Instr, decode (encode i) = .ok i) ∧
  (∀ (w : Word) (i : Instr), decode w = .ok i → encode i = w) ∧
  ∀ (i : Instr) (rest : List Byte), decodeBytes (encodeBytes i ++ rest) = .ok (i, rest)

/-- From rules R75 and R77: the words refused are exactly those that match no row of rule R75's table, and exactly those rule R77
lists. -/
def Obligations.IllegalWordsAreThoseOfNoRow : Prop :=
  ∀ w : Word,
    ((∃ e, decode w = .error e) ↔ ∀ r ∈ opcodeTable, r.matchesWord w = false) ∧
    ((∃ e, decode w = .error e) ↔
      (opcField w = 0x0#4 ∧ w ≠ 0#32) ∨
      (opcField w = 0x1#4 ∧ (w.extractLsb' 0 2 = 0#2 ∨ w.extractLsb' 2 26 ≠ 0#26)) ∨
      ((opcField w = 0x2#4 ∨ opcField w = 0x4#4) ∧ w.extractLsb' 24 4 ≠ 0#4) ∨
      (opcField w = 0x3#4 ∧ w.extractLsb' 4 24 ≠ 0#24) ∨
      5 ≤ (opcField w).toNat)

/-- From rules R75 and R76: no two rows match the same word, and a word decodes to the operation of the row it matches, with that
row's fields. -/
def Obligations.OpcodeRowsAreDisjoint : Prop :=
  (∀ (w : Word) (r1 r2 : OpcodeRow), r1 ∈ opcodeTable → r2 ∈ opcodeTable →
    r1.matchesWord w = true → r2.matchesWord w = true → r1 = r2) ∧
  ∀ (w : Word) (r : OpcodeRow), r ∈ opcodeTable → r.matchesWord w = true →
    ∃ i, decode w = .ok i ∧ i.mnemonic = r.mnemonic ∧
      (∀ len, (i = .rxBurst len ∨ i = .txPull len) → len.toNat = w.toNat % 2 ^ 24) ∧
      ∀ cv, i = .txReq cv → cv.toNat = w.toNat % 16

/-- Rule R84's examples, words written out from rules R74-R81. -/
def Obligations.WrittenOutWordsReadAsTheSpecSays : Prop :=
  decode 0x3000000A#32 = .ok (.txReq 0xA#4) ∧
  decode 0x20001B80#32 = .ok (.rxBurst 7040#24) ∧
  decode 0x40001000#32 = .ok (.txPull 4096#24) ∧
  decode 0x10000003#32 = .ok .rstAll ∧
  (∃ e, decode 0x10000000#32 = .error e) ∧
  (Event.decoded 0x12345#20 0xA#4).words = [0x1012345A#32] ∧
  (Event.inconclusive 50#28).words = [0x20000032#32] ∧
  (Event.malformed 3#24).words = [0x40000003#32]

/-- Rule R81: the tag and the fields of every event's words; no other tag is emitted. -/
def Obligations.EventWordsFollowTheTable : Prop :=
  (∀ id cmd, ∃ w : Word, (Event.decoded id cmd).words = [w] ∧ w.extractLsb' 28 4 = 0x1#4 ∧ w.extractLsb' 24 4 = 0#4 ∧
    w.extractLsb' 4 20 = id ∧ w.extractLsb' 0 4 = cmd ∧ w.extractLsb' 0 24 = id ++ cmd) ∧
  (∀ n, ∃ w : Word, (Event.inconclusive n).words = [w] ∧ w.extractLsb' 28 4 = 0x2#4 ∧ w.extractLsb' 0 28 = n) ∧
  (∀ a b, ∃ w : Word, (Event.mismatch a b).words = [w, a, b] ∧ w.extractLsb' 28 4 = 0x3#4 ∧ w.extractLsb' 0 28 = 0#28) ∧
  (∀ len, ∃ w : Word, (Event.malformed len).words = [w] ∧ w.extractLsb' 28 4 = 0x4#4 ∧ w.extractLsb' 24 4 = 0#4 ∧
    w.extractLsb' 0 24 = len) ∧
  (∀ c, ∃ w : Word, (Event.illegal c).words = [w, c] ∧ w.extractLsb' 28 4 = 0x5#4 ∧ w.extractLsb' 0 28 = 0#28) ∧
  (∀ cmd, ∃ w : Word, (Event.txqFull cmd).words = [w] ∧ w.extractLsb' 28 4 = 0x6#4 ∧ w.extractLsb' 4 24 = 0#24 ∧
    w.extractLsb' 0 4 = cmd) ∧
  ∀ e : Event, ∃ (w : Word) (more : List Word), e.words = w :: more ∧ 1 ≤ (w.extractLsb' 28 4).toNat ∧
    (w.extractLsb' 28 4).toNat ≤ 6

/-- From rules R80 and R81: the word stream tells the events apart, so no report is lost on a word transport. -/
def Obligations.EventStreamIsUniquelyReadable : Prop :=
  ∀ a b : List Event, eventStream a = eventStream b → a = b

/-- From rules R54 and R79: a word goes least significant byte first, and TX.PULL's answer is its count as such a word,
then its bytes. -/
def Obligations.WordsTravelLittleEndian : Prop :=
  (∀ w : Word, (wordBytes w).map BitVec.toNat =
    [w.toNat % 256, w.toNat / 256 % 256, w.toNat / 65536 % 256, w.toNat / 16777216]) ∧
  (∀ b0 b1 b2 b3 : Byte, wordBytes (wordOfBytes b0 b1 b2 b3) = [b0, b1, b2, b3]) ∧
  ∀ r : TxReply, r.bytes.length < 2 ^ 32 →
    ∃ w : Word, w.toNat = r.bytes.length ∧ r.transport = wordBytes w ++ r.bytes

/-! ## Configuration and timing -/

/-- Rule R8: the definitions; `IVAL` is `32*FS/100000` rounded to the nearest integer, never on a tie, and at least 1;
`N_CLAMP` is the least LONG count; a frame is 110 intervals and `220*IVAL` bytes. -/
def Obligations.DerivedConstantsAreTheRoundings : Prop :=
  ∀ c : Config, c.legal = true →
    ival c = (32 * c.fs + 50000) / 100000 ∧ |(ival c : ℚ) - 32 * c.fs / 100000| < 1 / 2 ∧ 1 ≤ ival c ∧
    nClamp c = c.fs / 500 + 1 ∧ isLong c (nClamp c) = true ∧ (∀ n, isLong c n = true → nClamp c ≤ n) ∧
    frameIntervals = 14 + 4 * bitCount ∧ frameIntervals = 110 ∧
    frameLen c = 2 * ival c * frameIntervals ∧ frameLen c = 220 * ival c

/-- Rule R9: the integer forms of the three predicates, and that they are the comparisons of the exact duration
`n*1000/FS` with 2, 0.25, 0.43, 0.9 and 1.15 ms, all strict; no duration is in both bit bands. -/
def Obligations.DurationTestsAreExact : Prop :=
  ∀ (c : Config) (n : Nat), c.legal = true →
    (isLong c n = true ↔ 500 * n > c.fs) ∧
    (isOne c n = true ↔ 4000 * n > c.fs ∧ 100000 * n < 43 * c.fs) ∧
    (isZero c n = true ↔ 10000 * n > 9 * c.fs ∧ 20000 * n < 23 * c.fs) ∧
    (isLong c n = true ↔ (n : ℚ) * 1000 / c.fs > 2) ∧
    (isOne c n = true ↔ 1 / 4 < (n : ℚ) * 1000 / c.fs ∧ (n : ℚ) * 1000 / c.fs < 43 / 100) ∧
    (isZero c n = true ↔ 9 / 10 < (n : ℚ) * 1000 / c.fs ∧ (n : ℚ) * 1000 / c.fs < 115 / 100) ∧
    ¬(isOne c n = true ∧ isZero c n = true)

/-- From rule R73: for every legal `FS >= 23438` the encoder's timing is inside the decoder's bands, and at 23437 it
is not. -/
def Obligations.EncoderTimingFitsTheDecoder : Prop :=
  (∀ c : Config, c.legal = true → 23438 ≤ c.fs →
    isOne c (ival c) = true ∧ isZero c (3 * ival c) = true ∧ isLong c (13 * ival c) = true ∧
    isLong c (3 * ival c) = false) ∧
  ∀ c : Config, c.fs = 23437 → isZero c (3 * ival c) = false

/-! ## Control operations and reset -/

/-- Rule R211: NOP changes nothing, and its only word is 0. -/
def Obligations.NopChangesNothing : Prop :=
  (∀ s : State, exec .nop s = .next s) ∧ ∀ w : Word, decode w = .ok .nop ↔ w = 0x00000000#32

/-- From rules R212-R214: each reset sets its path's elements to the reset values and leaves everything else
as it was, `evs` included. -/
def Obligations.ResetOperationsResetTheirPaths : Prop :=
  ∀ s : State,
    exec .rstRx s = .next { s with rx := { last := .low, run := 0#32, pbuf := [] } } ∧
    exec .rstTx s = .next { s with tx := { txq := [], off := 0#32 } } ∧
    exec .rstAll s =
      .next { s with rx := { last := .low, run := 0#32, pbuf := [] }, tx := { txq := [], off := 0#32 } }

/-- Rules R33 and R270: the four resets, and the value of every state element after each. -/
def Obligations.ResetValuesAreThoseOfTheTable : Prop :=
  (∀ c : Config, (State.powerOn c).rx = ⟨.low, 0#32, []⟩ ∧ (State.powerOn c).tx = ⟨[], 0#32⟩ ∧
    (State.powerOn c).evs = []) ∧
  (State.reset.rx = ⟨.low, 0#32, []⟩ ∧ State.reset.tx = ⟨[], 0#32⟩ ∧ State.reset.evs = []) ∧
  (decode 0x10000001#32 = .ok .rstRx ∧ decode 0x10000002#32 = .ok .rstTx ∧ decode 0x10000003#32 = .ok .rstAll) ∧
  ∀ s : State,
    (∃ t, exec .rstRx s = .next t ∧ t.rx = ⟨.low, 0#32, []⟩ ∧ t.tx = s.tx ∧ t.evs = s.evs) ∧
    (∃ t, exec .rstTx s = .next t ∧ t.rx = s.rx ∧ t.tx = ⟨[], 0#32⟩ ∧ t.evs = s.evs) ∧
    (∃ t, exec .rstAll s = .next t ∧ t.rx = ⟨.low, 0#32, []⟩ ∧ t.tx = ⟨[], 0#32⟩ ∧ t.evs = s.evs)

/-! ## ENV -/

/-- Rule R100: the power of a sample is exact, between 0 and 32768, the maximum only at (-128, -128), and depends on
neither the order nor the sign of I and Q. -/
def Obligations.PowerIsExactAndBounded : Prop :=
  (∀ i q : Int, power i q = i * i + q * q ∧ power i q = power (-i) q ∧ power i q = power q i) ∧
  (∀ bi bq : Byte, 0 ≤ power (s8 bi) (s8 bq) ∧ power (s8 bi) (s8 bq) ≤ 32768 ∧
    (power (s8 bi) (s8 bq) = 32768 ↔ s8 bi = -128 ∧ s8 bq = -128)) ∧ power 30 51 = 3501

/-- Rules R101 and R104: HIGH is a power above 3500; no sample has a power from 3498 to 3500; both ends of that gap
are reached; on one axis 59 is LOW and 60 is HIGH. -/
def Obligations.ThresholdSeparatesTheLevels : Prop :=
  (∀ i q : Int, (classify i q = .high ↔ power i q > 3500) ∧ (classify i q = .low ↔ power i q ≤ 3500)) ∧
  (∀ bi bq : Byte, power (s8 bi) (s8 bq) ≤ 3497 ∨ 3501 ≤ power (s8 bi) (s8 bq)) ∧
  power 4 59 = 3497 ∧ power 19 56 = 3497 ∧ power 30 51 = 3501 ∧
  (∀ b : Byte, classify (s8 b) 0 = .low ↔ |s8 b| ≤ 59) ∧
  classify (-128) 0 = .high ∧ classify 127 0 = .high ∧ power 127 127 = 32258 ∧ classify 127 127 = .high ∧
  power 0 0 = 0 ∧ classify 0 0 = .low

/-! ## SEG: RX.BURST of one sample, and of many -/

/-- Rule R122: a sample of the current level lengthens the run; a run that then lasts longer than 2 ms empties `pbuf`
and is clamped to `N_CLAMP`. No event. -/
def Obligations.SameLevelSampleExtendsTheRun : Prop :=
  ∀ (s : State) (bi bq : Byte) (rest : List Byte),
    s.rxData = bi :: bq :: rest → classify (s8 bi) (s8 bq) = s.rx.last →
    exec (.rxBurst 2#24) s =
      .next { s with
        rxData := rest
        rx := if 500 * (s.rx.run + 1#32).toNat > s.cfg.fs
          then { last := s.rx.last, run := BitVec.ofNat 32 (s.cfg.fs / 500 + 1), pbuf := [] }
          else { last := s.rx.last, run := s.rx.run + 1#32, pbuf := s.rx.pbuf } }

/-- Rule R121: a sample of the other level appends the finished run as one pulse, the decode attempt sees that buffer,
and the new run counts the sample. -/
def Obligations.LevelChangeAppendsOnePulse : Prop :=
  ∀ (s : State) (bi bq : Byte) (rest : List Byte),
    s.rxData = bi :: bq :: rest → classify (s8 bi) (s8 bq) ≠ s.rx.last →
    exec (.rxBurst 2#24) s =
      .next { s with
        rxData := rest
        rx := { last := classify (s8 bi) (s8 bq), run := 1#32,
                pbuf := (decodeAttempt s.cfg (s.rx.pbuf ++ [⟨s.rx.last, s.rx.run⟩])).1 }
        evs := s.evs ++ (decodeAttempt s.cfg (s.rx.pbuf ++ [⟨s.rx.last, s.rx.run⟩])).2.toList }

/-- From rule R126: after a receive reset a first HIGH sample leaves the pulse (LOW, 0), and a first LOW sample is the
first of a run; neither reports. -/
def Obligations.FirstSampleAfterResetStartsARun : Prop :=
  ∀ (s : State) (bi bq : Byte) (rest : List Byte),
    s.cfg.legal = true → s.rxData = bi :: bq :: rest → s.rx = ⟨.low, 0#32, []⟩ →
    exec (.rxBurst 2#24) s =
      .next { s with
        rxData := rest
        rx := if classify (s8 bi) (s8 bq) = .high then ⟨.high, 1#32, [⟨.low, 0#32⟩]⟩ else ⟨.low, 1#32, []⟩ }

/-- From rules R215 and R102, even lengths: the burst's bytes leave the channel, its samples run in order, and only the receive path
and `evs` change. -/
def Obligations.EvenBurstRunsItsSamples : Prop :=
  (∀ (s : State) (len : BitVec 24), len.toNat ≤ s.rxData.length → len.toNat % 2 = 0 →
    exec (.rxBurst len) s =
      .next { s with
        rxData := s.rxData.drop len.toNat
        rx := (receive s.cfg (samplesOf (s.rxData.take len.toNat)) s.rx).1
        evs := s.evs ++ (receive s.cfg (samplesOf (s.rxData.take len.toNat)) s.rx).2 }) ∧
  ∀ (c : Config) (bi bq : Byte) (rest : List Byte) (r : RxPath),
    receive c (samplesOf (bi :: bq :: rest)) r =
      ((receive c (samplesOf rest) (sampleStep c ⟨s8 bi, s8 bq⟩ r).1).1,
        (sampleStep c ⟨s8 bi, s8 bq⟩ r).2.toList ++ (receive c (samplesOf rest) (sampleStep c ⟨s8 bi, s8 bq⟩ r).1).2)

/-- Rule R242: an odd burst is refused whole; its bytes are taken and discarded. -/
def Obligations.OddBurstIsRefusedWhole : Prop :=
  ∀ (s : State) (len : BitVec 24), len.toNat ≤ s.rxData.length → len.toNat % 2 = 1 →
    exec (.rxBurst len) s =
      .next { s with rxData := s.rxData.drop len.toNat, evs := s.evs ++ [.malformed len] }

/-- Rule R65: a burst split at an even index gives the same state and the same events in the same order; split at an
odd index, both parts are refused. -/
def Obligations.BurstBoundariesCarryNoMeaning : Prop :=
  ∀ (s : State) (m n : BitVec 24), m.toNat + n.toNat < 2 ^ 24 → m.toNat + n.toNat ≤ s.rxData.length →
    (m.toNat % 2 = 0 → n.toNat % 2 = 0 →
      andThen (exec (.rxBurst m) s) (exec (.rxBurst n)) = exec (.rxBurst (m + n)) s) ∧
    (m.toNat % 2 = 1 → n.toNat % 2 = 1 →
      andThen (exec (.rxBurst m) s) (exec (.rxBurst n)) =
        .next { s with
          rxData := s.rxData.drop (m.toNat + n.toNat)
          evs := s.evs ++ [.malformed m, .malformed n] })

/-- From rules R152 and R248: an even burst reports at most one event per sample, each DECODED or INCONCLUSIVE. -/
def Obligations.BurstReportsAtMostOncePerSample : Prop :=
  ∀ (s : State) (len : BitVec 24), len.toNat ≤ s.rxData.length → len.toNat % 2 = 0 →
    ∃ t es, exec (.rxBurst len) s = .next t ∧ t.evs = s.evs ++ es ∧ 2 * es.length ≤ len.toNat ∧
      ∀ e ∈ es, (∃ id cmd, e = .decoded id cmd) ∨ ∃ n, e = .inconclusive n

/-- Rule R127: after `k` same-level samples that began at a level change, with `LONG(k)`, `pbuf` is empty, and stays so
as `k` grows; `LONG` is never reached at a run's first sample, `N_CLAMP` being at least 4. By rule R125 the run is
clamped. -/
def Obligations.LongRunEmptiesTheBuffer : Prop :=
  ∀ (s : State) (lvl : Level) (k : Nat) (len : BitVec 24),
    s.cfg.legal = true → s.rx.last ≠ lvl → len.toNat = 2 * k → 500 * k > s.cfg.fs →
    len.toNat ≤ s.rxData.length →
    (∀ p ∈ samplesOf (s.rxData.take len.toNat), p.level = lvl) →
    ∃ t, exec (.rxBurst len) s = .next t ∧ t.rx.pbuf = [] ∧ t.rx.last = lvl ∧ t.rx.run.toNat = nClamp s.cfg ∧
      4 ≤ nClamp s.cfg

/-! ## DEC -/

/-- Rule R142: with fewer than 49 pulses an attempt drops nothing and reports nothing. -/
def Obligations.ShortBufferAttemptIsNoOp : Prop :=
  ∀ (c : Config) (ps : List Pulse), ps.length < 49 → decodeAttempt c ps = (ps, none)

/-- Rules R147 and R149: 49 pulses that begin with a sync LOW and whose 24 HIGHs stand for the bits of `w` report
DECODED with `w`'s identifier and command; 48 are consumed and the last LOW stays. -/
def Obligations.CompleteFrameDecodes : Prop :=
  ∀ (c : Config) (ps : List Pulse) (sync : Pulse) (w : BitVec 24),
    ps.length = 49 → ps[0]? = some sync → sync.lvl = .low → isLong c sync.n.toNat = true →
    (∀ j < 24, ∃ p, ps[2 * j + 1]? = some p ∧
      if wordBit w j then isOne c p.n.toNat = true else isZero c p.n.toNat = true) →
    decodeAttempt c ps = (ps.drop 48, some (.decoded (w.extractLsb' 4 20) (w.extractLsb' 0 4)))

/-- Rule R148: at the first bit (the `k+1`-th, `k` counted from 0) whose HIGH fits neither band the attempt
reports that HIGH's sample count and stops; the `2(k+1)` pulses consumed are gone, the others stay. -/
def Obligations.NearMissIsInconclusive : Prop :=
  ∀ (c : Config) (ps : List Pulse) (sync p : Pulse) (k : Nat),
    ps.length = 49 → ps[0]? = some sync → sync.lvl = .low → isLong c sync.n.toNat = true → k < 24 →
    (∀ j < k, ∃ q, ps[2 * j + 1]? = some q ∧ (isOne c q.n.toNat = true ∨ isZero c q.n.toNat = true)) →
    ps[2 * k + 1]? = some p → isOne c p.n.toNat = false → isZero c p.n.toNat = false → p.n.toNat < 2 ^ 28 →
    ∃ n : BitVec 28, n.toNat = p.n.toNat ∧
      decodeAttempt c ps = (ps.drop (2 * (k + 1)), some (.inconclusive n))

/-- From rules R143 and R144 (the source's Property 3): noise before a frame, an optional leading HIGH and then
LOW/HIGH pairs no LOW of which is LONG, does not change what an attempt does with the frame. -/
def Obligations.SyncSearchSkipsNoise : Prop :=
  ∀ (c : Config) (lead : Option Pulse) (noise : List (Pulse × Pulse)) (sync : Pulse) (ps : List Pulse),
    (∀ h, lead = some h → h.lvl = .high) →
    (∀ x ∈ noise, x.1.lvl = .low ∧ isLong c x.1.n.toNat = false) →
    sync.lvl = .low → isLong c sync.n.toNat = true → 48 ≤ ps.length →
    decodeAttempt c (lead.toList ++ noise.flatMap (fun x => [x.1, x.2]) ++ sync :: ps) = decodeAttempt c (sync :: ps)

/-- From rule R153: 49 pulses with no sync at the head and no LONG pulse behind it are flushed in silence: down to the
last one where the head is LOW, to none where it is HIGH. -/
def Obligations.BufferWithoutSyncIsFlushed : Prop :=
  ∀ (c : Config) (p : Pulse) (ps : List Pulse), ps.length = 48 → (∀ q ∈ ps, isLong c q.n.toNat = false) →
    (p.lvl = .high → decodeAttempt c (p :: ps) = ([], none)) ∧
    (p.lvl = .low → isLong c p.n.toNat = false → decodeAttempt c (p :: ps) = (ps.drop 47, none))

/-- From rule R150: an attempt that passes step 1 leaves a proper tail of the buffer, so 49 pulses become at most
48. -/
def Obligations.FullBufferAttemptShortens : Prop :=
  ∀ (c : Config) (ps : List Pulse), 49 ≤ ps.length →
    (∃ d, ps = d ++ (decodeAttempt c ps).1) ∧ (decodeAttempt c ps).1.length < ps.length

/-! ## ENC -/

/-- Rule R174: every schedule has 50 spans and 110 intervals, so the construction check never fails and no TX.REQ
reports MISMATCH. -/
def Obligations.ConstructionCheckNeverFails : Prop :=
  (∀ (c : Config) (w : BitVec 24),
    (schedule w).length = 50 ∧ ((schedule w).map Span.intervals).sum = 110 ∧
    constructedLength c w = 220 * ival c ∧ constructedLength c w = frameLen c) ∧
  ∀ (cv : BitVec 4) (s t : State) (a b : Word), exec (.txReq cv) s = .next t → t.evs ≠ s.evs ++ [.mismatch a b]

/-- Rule R172: the rendering of the schedule of rule R171 and the closed form give the same bytes, `220*IVAL` of
them. -/
def Obligations.ClosedFormRendersTheSchedule : Prop :=
  ∀ (c : Config) (cv : BitVec 4),
    renderSchedule c (schedule (frameWord c cv)) = frame c cv ∧
    (frame c cv).length = 220 * ival c ∧
    ∀ b < frameLen c, (frame c cv)[b]? = some (frameByte c cv b)

/-- Rule R170: the identifier is bits 23..4 of the frame word and the command is bits 3..0. -/
def Obligations.FrameWordHoldsIdentifierAndCommand : Prop :=
  ∀ (c : Config) (cv : BitVec 4),
    (frameWord c cv).extractLsb' 4 20 = c.deviceId ∧ (frameWord c cv).extractLsb' 0 4 = cv ∧
    (frameWord c cv).toNat = c.deviceId.toNat * 16 + cv.toNat

/-! ## TX.REQ and FEED -/

/-- From rules R216 and R193: a request the queue has room for appends its command value to the tail and changes nothing else, the
cursor included; with UNBOUNDED there is always room. -/
def Obligations.RequestIsQueuedAtTheTail : Prop :=
  ∀ (s : State) (cv : BitVec 4),
    (s.cfg.txqDepth = .unbounded ∨ ∃ d, s.cfg.txqDepth = .frames d ∧ s.tx.txq.length ≠ d) →
    exec (.txReq cv) s = .next { s with tx := { txq := s.tx.txq ++ [cv], off := s.tx.off } }

/-- Rule R246: a request on a full queue is reported and dropped; with UNBOUNDED no request reports. -/
def Obligations.RequestOnFullQueueIsDropped : Prop :=
  (∀ (s : State) (cv : BitVec 4) (d : Nat), s.cfg.txqDepth = .frames d → s.tx.txq.length = d →
    exec (.txReq cv) s = .next { s with evs := s.evs ++ [.txqFull cv] }) ∧
  ∀ (s t : State) (cv : BitVec 4), s.cfg.txqDepth = .unbounded → exec (.txReq cv) s = .next t → t.evs = s.evs

/-- From rules R195, R191, R192, R79 and R217: a pull writes the next `k = min(LEN, bytes pending)` pending bytes, leaves the
rest of the host's buffer as it was, and leaves exactly the other bytes pending; only the transmit path and the TX data
channel change. The host's buffer is the model's choice (assumption 4): the oldest waiting one, an empty one where none
waits, its length not compared with `LEN`. -/
def Obligations.PullReturnsTheNextPendingBytes : Prop :=
  ∀ (s : State) (len : BitVec 24), s.cfg.legal = true → TxInv s.cfg s.tx →
    ∃ (x : TxPath) (out : List Byte),
      exec (.txPull len) s =
        .next { s with
          tx := x
          txBufs := s.txBufs.tail
          txData := s.txData ++ [{ bytes := out, buffer := out ++ (s.txBufs.headD []).drop out.length }] } ∧
      out = (pendingBytes s.cfg s.tx).take len.toNat ∧
      out.length = min len.toNat (s.tx.txq.length * frameLen s.cfg - s.tx.off.toNat) ∧
      x.txq.length * frameLen s.cfg - x.off.toNat =
        s.tx.txq.length * frameLen s.cfg - s.tx.off.toNat - out.length ∧
      pendingBytes s.cfg x = (pendingBytes s.cfg s.tx).drop len.toNat ∧
      (∃ sent, s.tx.txq = sent ++ x.txq) ∧ TxInv s.cfg x

/-- From rules R192 and R196: a pull of length 0, or on an empty queue, returns no byte, leaves the transmit path as it
was and the host's buffer as the host set it. Which buffer that is, where several or none wait, is the model's choice
(assumption 4): the oldest, and an empty one where none waits. -/
def Obligations.EmptyPullLeavesTheBuffer : Prop :=
  ∀ (s : State) (len : BitVec 24), (len = 0#24 ∨ s.tx.txq = []) →
    exec (.txPull len) s =
      .next { s with
        txBufs := s.txBufs.tail
        txData := s.txData ++ [{ bytes := [], buffer := s.txBufs.headD [] }] }

/-- From rule R66 (the source's Property 5): pulls of any lengths return, put together, a prefix of the queued frames'
bytes, and the whole of them once enough was asked for. -/
def Obligations.PullBoundariesCarryNoMeaning : Prop :=
  ∀ (s : State) (lens : List (BitVec 24)), s.cfg.legal = true → TxInv s.cfg s.tx →
    ∃ (t : State) (rs : List TxReply),
      execAll (lens.map .txPull) s = .next t ∧ t.txData = s.txData ++ rs ∧ rs.length = lens.length ∧
      rs.flatMap TxReply.bytes = (pendingBytes s.cfg s.tx).take (lens.map BitVec.toNat).sum ∧
      (s.tx.off = 0#32 → s.tx.txq.length * frameLen s.cfg ≤ (lens.map BitVec.toNat).sum →
        rs.flatMap TxReply.bytes = s.tx.txq.flatMap (frame s.cfg))

/-- From rule R194: over any operations that do not reset the transmit path, requests and pulls in any order, the
bytes sent followed by the bytes still pending are the bytes pending before followed by the requested frames in order.
The queue is UNBOUNDED, so every request is accepted. -/
def Obligations.SentBytesAreTheRequestedFrames : Prop :=
  ∀ (s : State) (is : List Instr), s.cfg.legal = true → s.cfg.txqDepth = .unbounded → TxInv s.cfg s.tx →
    (∀ i ∈ is, resetsTx i = false) →
    ∃ (t : State) (rs : List TxReply),
      execAll is s = .next t ∧ t.txData = s.txData ++ rs ∧ t.cfg = s.cfg ∧
      rs.flatMap TxReply.bytes ++ pendingBytes t.cfg t.tx = pendingBytes s.cfg s.tx ++ requestedBytes s.cfg is

/-! ## The whole machine -/

/-- From rules R24, R26, R27 and R29: an invariant every step keeps, from any state that meets it. -/
def Obligations.StepKeepsBothPathsInvariant : Prop :=
  ∀ s t : State, Inv s → step s = .next t → Inv t

/-- The invariant holds at power-on with any legal configuration, and at reset. -/
def Obligations.PowerOnMeetsBothPathsInvariant : Prop :=
  (∀ c : Config, c.legal = true → Inv (.powerOn c)) ∧ Inv State.reset

/-- From rules R24, R26 and R29: the bounds of every state a session reaches, whatever the host issues. -/
def Obligations.ReachableStatesKeepTheBounds : Prop :=
  ∀ s : State, Reachable s →
    (∀ k p q, s.rx.pbuf[k]? = some p → s.rx.pbuf[k + 1]? = some q → q.lvl = p.lvl.flip) ∧
    (∀ p, s.rx.pbuf.getLast? = some p → p.lvl = s.rx.last.flip) ∧
    s.rx.pbuf.length ≤ 48 ∧ (s.rx.pbuf ++ [(⟨s.rx.last, s.rx.run⟩ : Pulse)]).length ≤ 49 ∧
    (∀ k p, s.rx.pbuf[k]? = some p → isLong s.cfg p.n.toNat = true → k = 0 ∧ p.n.toNat = nClamp s.cfg) ∧
    (∀ p ∈ s.rx.pbuf, p.n.toNat ≤ nClamp s.cfg) ∧
    (∀ k p, s.rx.pbuf[k]? = some p → p.n = 0#32 → k = 0 ∧ p.lvl = .low) ∧
    s.rx.run.toNat ≤ nClamp s.cfg ∧
    (s.tx.txq = [] → s.tx.off = 0#32) ∧ (s.tx.txq ≠ [] → s.tx.off.toNat < frameLen s.cfg) ∧
    frameLen s.cfg ≤ 220 * 687195 ∧ frameLen s.cfg < 2 ^ 28

/-- Rule R255: the paths share no state. An operation of one path changes nothing of the other's, and what it does to
its own path, and what it reports, does not depend on the other's. -/
def Obligations.PathsShareNoState : Prop :=
  (∀ (i : Instr) (s t : State), isRxOp i = true → exec i s = .next t →
    t.tx = s.tx ∧ t.txBufs = s.txBufs ∧ t.txData = s.txData) ∧
  (∀ (i : Instr) (s t : State), isTxOp i = true → exec i s = .next t → t.rx = s.rx ∧ t.rxData = s.rxData) ∧
  (∀ (i : Instr) (s s' t t' : State), isRxOp i = true → s.cfg = s'.cfg → s.rx = s'.rx → s.rxData = s'.rxData →
    exec i s = .next t → exec i s' = .next t' →
    t.rx = t'.rx ∧ t.rxData = t'.rxData ∧ ∃ es, t.evs = s.evs ++ es ∧ t'.evs = s'.evs ++ es) ∧
  ∀ (i : Instr) (s s' t t' : State), isTxOp i = true → s.cfg = s'.cfg → s.tx = s'.tx → s.txBufs = s'.txBufs →
    exec i s = .next t → exec i s' = .next t' →
    t.tx = t'.tx ∧ t.txBufs = t'.txBufs ∧ (∃ es, t.evs = s.evs ++ es ∧ t'.evs = s'.evs ++ es) ∧
      ∃ rs, t.txData = s.txData ++ rs ∧ t'.txData = s'.txData ++ rs

/-- From rule R176 (the source's Property 1, restated): from any receive state, `FRAME(v)`, then at most `N_CLAMP - 1 - r`
LOW samples, then a HIGH sample report `DECODED(DEVICE_ID, v)` at that HIGH sample. No sample of the frame after sample
`IVAL` reports: the events before that HIGH sample are those of the frame's first `IVAL + 1` samples. -/
def Obligations.TransmittedFrameIsDecoded : Prop :=
  ∀ (c : Config) (v : BitVec 4) (r : RxPath) (z : Nat) (p : Sample),
    c.legal = true → 23438 ≤ c.fs → lastLowRun c v + z ≤ nClamp c - 1 → p.level = .high →
    let start := receive c (samplesOf ((frame c v).take (2 * (ival c + 1)))) r
    let whole := samplesOf (frame c v ++ levelSamples .low z)
    (receive c whole r).2 = start.2 ∧
    receive c (whole ++ [p]) r =
      ({ last := .high, run := 1#32, pbuf := [⟨.low, BitVec.ofNat 32 (lastLowRun c v + z)⟩] }, start.2 ++ [.decoded c.deviceId v])

/-- From rules R154, R176 and R279: a frame followed by silence is never decoded, however long the silence; once the
last LOW is longer than 2 ms, nothing of the frame is left. -/
def Obligations.LoneFrameIsNeverDecoded : Prop :=
  ∀ (c : Config) (v : BitVec 4) (r : RxPath) (z : Nat), c.legal = true → 23438 ≤ c.fs →
    (receive c (samplesOf (frame c v ++ levelSamples .low z)) r).2 =
      (receive c (samplesOf ((frame c v).take (2 * (ival c + 1)))) r).2 ∧
    (nClamp c ≤ lastLowRun c v + z →
      (receive c (samplesOf (frame c v ++ levelSamples .low z)) r).1 =
        { last := .low, run := BitVec.ofNat 32 (nClamp c), pbuf := [] })

/-- From rules R154 and R279: from a reset receive path, `n + 1` back-to-back copies of a frame report DECODED `n`
times, and nothing else. -/
def Obligations.BackToBackCopiesDecodeAllButOne : Prop :=
  ∀ (c : Config) (v : BitVec 4) (n : Nat), c.legal = true → 23438 ≤ c.fs →
    (receive c (samplesOf (List.replicate (n + 1) (frame c v)).flatten) .reset).2 =
      List.replicate n (.decoded c.deviceId v)

/-! ## The host adapter -/

/-- Rules R220 and R247: a line issues TX.REQ exactly when, without its terminator, it is one hex digit; any other
line issues nothing. -/
def Obligations.InputLineIsOneHexDigit : Prop :=
  (∀ (ch : Char) (cv : BitVec 4), hexDigit ch = some cv ↔
    (cv.toNat ≤ 9 ∧ ch.toNat = 48 + cv.toNat) ∨
    (10 ≤ cv.toNat ∧ (ch.toNat = 55 + cv.toNat ∨ ch.toNat = 87 + cv.toNat))) ∧
  (∀ (line : List Char) (cv : BitVec 4), lineRequest line = some cv ↔
    ∃ ch, hexDigit ch = some cv ∧ (line = [ch] ∨ line = [ch, '\n'] ∨ line = [ch, '\r', '\n'])) ∧
  ∀ line : List Char,
    (∀ cv, lineRequest line = some cv → inputLine line = [.issue (.txReq cv) [] []]) ∧
    (lineRequest line = none → inputLine line = [])

/-- From rules R222, R223 and R76: a callback's buffer is issued whole, in order, in parts one word can name, a receive
buffer split at even offsets only; one that fits is issued as one command. -/
def Obligations.CallbacksIssueTheWholeBuffer : Prop :=
  ∀ buffer : List Byte,
    (∃ parts, receiveCallback buffer = parts.map burstCommand ∧ parts.flatten = buffer ∧
      (∀ p ∈ parts, p.length ≤ 16777215 ∧ (burstCommand p).wellFormed = true) ∧
      (∀ p ∈ parts.dropLast, p.length % 2 = 0) ∧ (buffer.length ≤ 16777215 → parts = [buffer])) ∧
    ∃ parts, transmitCallback buffer = parts.map pullCommand ∧ parts.flatten = buffer ∧
      (∀ p ∈ parts, p.length ≤ 16777215 ∧ (pullCommand p).wellFormed = true) ∧
      (buffer.length ≤ 16777215 → parts = [buffer])

/-- From rules R83 and R82: the pseudo-instructions and their expansions; an RX.SILENCE whose byte count is above
16777215 is refused. -/
def Obligations.PseudoInstructionsExpand : Prop :=
  ∀ (c : Config) (v : BitVec 4) (n : Nat),
    assemble c [.rst] = some [.issue .rstAll [] []] ∧
    assemble c [.txSend v] = some [.issue (.txReq v) [] [], .issue (.txReq v) [] []] ∧
    assemble c [.rxSilence n] = assemble c [.rxBurst [.low n]] ∧
    (2 * n ≤ 16777215 → assemble c [.rxSilence n] = some [burstCommand (levelSamples .low n)]) ∧
    (16777215 < 2 * n → assemble c [.rxSilence n] = none)
end

