-- ==== Sys2Proof/Laws/State.lean ====
section
/-! SUPPORT. One lemma per field per update of the state, so that no later proof unfolds a record update. -/

namespace Sys2Proof.Machine

/-! `State.emit`. -/

@[simp] theorem State.emit_cfg (s : State) (e : Event) : (s.emit e).cfg = s.cfg := rfl
@[simp] theorem State.emit_rx (s : State) (e : Event) : (s.emit e).rx = s.rx := rfl
@[simp] theorem State.emit_tx (s : State) (e : Event) : (s.emit e).tx = s.tx := rfl
@[simp] theorem State.emit_evs (s : State) (e : Event) : (s.emit e).evs = s.evs ++ [e] := rfl
@[simp] theorem State.emit_cmds (s : State) (e : Event) : (s.emit e).cmds = s.cmds := rfl
@[simp] theorem State.emit_rxData (s : State) (e : Event) : (s.emit e).rxData = s.rxData := rfl
@[simp] theorem State.emit_txBufs (s : State) (e : Event) : (s.emit e).txBufs = s.txBufs := rfl
@[simp] theorem State.emit_txData (s : State) (e : Event) : (s.emit e).txData = s.txData := rfl

/-! `State.resetRx`. -/

@[simp] theorem State.resetRx_cfg (s : State) : (s.resetRx).cfg = s.cfg := rfl
@[simp] theorem State.resetRx_rx (s : State) : (s.resetRx).rx = .reset := rfl
@[simp] theorem State.resetRx_tx (s : State) : (s.resetRx).tx = s.tx := rfl
@[simp] theorem State.resetRx_evs (s : State) : (s.resetRx).evs = s.evs := rfl
@[simp] theorem State.resetRx_cmds (s : State) : (s.resetRx).cmds = s.cmds := rfl
@[simp] theorem State.resetRx_rxData (s : State) : (s.resetRx).rxData = s.rxData := rfl
@[simp] theorem State.resetRx_txBufs (s : State) : (s.resetRx).txBufs = s.txBufs := rfl
@[simp] theorem State.resetRx_txData (s : State) : (s.resetRx).txData = s.txData := rfl

/-! `State.resetTx`. -/

@[simp] theorem State.resetTx_cfg (s : State) : (s.resetTx).cfg = s.cfg := rfl
@[simp] theorem State.resetTx_rx (s : State) : (s.resetTx).rx = s.rx := rfl
@[simp] theorem State.resetTx_tx (s : State) : (s.resetTx).tx = .reset := rfl
@[simp] theorem State.resetTx_evs (s : State) : (s.resetTx).evs = s.evs := rfl
@[simp] theorem State.resetTx_cmds (s : State) : (s.resetTx).cmds = s.cmds := rfl
@[simp] theorem State.resetTx_rxData (s : State) : (s.resetTx).rxData = s.rxData := rfl
@[simp] theorem State.resetTx_txBufs (s : State) : (s.resetTx).txBufs = s.txBufs := rfl
@[simp] theorem State.resetTx_txData (s : State) : (s.resetTx).txData = s.txData := rfl

/-! `State.rxDrop`. -/

@[simp] theorem State.rxDrop_cfg (s : State) (n : Nat) : (s.rxDrop n).cfg = s.cfg := rfl
@[simp] theorem State.rxDrop_rx (s : State) (n : Nat) : (s.rxDrop n).rx = s.rx := rfl
@[simp] theorem State.rxDrop_tx (s : State) (n : Nat) : (s.rxDrop n).tx = s.tx := rfl
@[simp] theorem State.rxDrop_evs (s : State) (n : Nat) : (s.rxDrop n).evs = s.evs := rfl
@[simp] theorem State.rxDrop_cmds (s : State) (n : Nat) : (s.rxDrop n).cmds = s.cmds := rfl
@[simp] theorem State.rxDrop_rxData (s : State) (n : Nat) : (s.rxDrop n).rxData = s.rxData.drop n := rfl
@[simp] theorem State.rxDrop_txBufs (s : State) (n : Nat) : (s.rxDrop n).txBufs = s.txBufs := rfl
@[simp] theorem State.rxDrop_txData (s : State) (n : Nat) : (s.rxDrop n).txData = s.txData := rfl

/-! `State.runReceive`. -/

@[simp] theorem State.runReceive_cfg (s : State) (b : List Byte) : (s.runReceive b).cfg = s.cfg := rfl
@[simp] theorem State.runReceive_rx (s : State) (b : List Byte) : (s.runReceive b).rx = (receive s.cfg (samplesOf b) s.rx).1 := rfl
@[simp] theorem State.runReceive_tx (s : State) (b : List Byte) : (s.runReceive b).tx = s.tx := rfl
@[simp] theorem State.runReceive_evs (s : State) (b : List Byte) : (s.runReceive b).evs = s.evs ++ (receive s.cfg (samplesOf b) s.rx).2 := rfl
@[simp] theorem State.runReceive_cmds (s : State) (b : List Byte) : (s.runReceive b).cmds = s.cmds := rfl
@[simp] theorem State.runReceive_rxData (s : State) (b : List Byte) : (s.runReceive b).rxData = s.rxData := rfl
@[simp] theorem State.runReceive_txBufs (s : State) (b : List Byte) : (s.runReceive b).txBufs = s.txBufs := rfl
@[simp] theorem State.runReceive_txData (s : State) (b : List Byte) : (s.runReceive b).txData = s.txData := rfl

/-! `State.txReturn`. -/

@[simp] theorem State.txReturn_cfg (s : State) (b : List Byte) : (s.txReturn b).cfg = s.cfg := rfl
@[simp] theorem State.txReturn_rx (s : State) (b : List Byte) : (s.txReturn b).rx = s.rx := rfl
@[simp] theorem State.txReturn_tx (s : State) (b : List Byte) : (s.txReturn b).tx = s.tx := rfl
@[simp] theorem State.txReturn_evs (s : State) (b : List Byte) : (s.txReturn b).evs = s.evs := rfl
@[simp] theorem State.txReturn_cmds (s : State) (b : List Byte) : (s.txReturn b).cmds = s.cmds := rfl
@[simp] theorem State.txReturn_rxData (s : State) (b : List Byte) : (s.txReturn b).rxData = s.rxData := rfl
@[simp] theorem State.txReturn_txBufs (s : State) (b : List Byte) : (s.txReturn b).txBufs = s.txBufs.tail := rfl
@[simp] theorem State.txReturn_txData (s : State) (b : List Byte) : (s.txReturn b).txData = s.txData ++ [{ bytes := b, buffer := b ++ s.nextTxBuf.drop b.length }] := rfl

/-! `State.enqueue`. -/

@[simp] theorem State.enqueue_cfg (s : State) (cv : BitVec 4) : (s.enqueue cv).cfg = s.cfg := rfl
@[simp] theorem State.enqueue_rx (s : State) (cv : BitVec 4) : (s.enqueue cv).rx = s.rx := rfl
@[simp] theorem State.enqueue_tx (s : State) (cv : BitVec 4) : (s.enqueue cv).tx = { txq := s.tx.txq ++ [cv], off := s.tx.off } := rfl
@[simp] theorem State.enqueue_evs (s : State) (cv : BitVec 4) : (s.enqueue cv).evs = s.evs := rfl
@[simp] theorem State.enqueue_cmds (s : State) (cv : BitVec 4) : (s.enqueue cv).cmds = s.cmds := rfl
@[simp] theorem State.enqueue_rxData (s : State) (cv : BitVec 4) : (s.enqueue cv).rxData = s.rxData := rfl
@[simp] theorem State.enqueue_txBufs (s : State) (cv : BitVec 4) : (s.enqueue cv).txBufs = s.txBufs := rfl
@[simp] theorem State.enqueue_txData (s : State) (cv : BitVec 4) : (s.enqueue cv).txData = s.txData := rfl

/-! `State.refuseWord`. -/

@[simp] theorem State.refuseWord_cfg (s : State) (w : Word) : (s.refuseWord w).cfg = s.cfg := rfl
@[simp] theorem State.refuseWord_rx (s : State) (w : Word) : (s.refuseWord w).rx = s.rx := rfl
@[simp] theorem State.refuseWord_tx (s : State) (w : Word) : (s.refuseWord w).tx = s.tx := rfl
@[simp] theorem State.refuseWord_evs (s : State) (w : Word) : (s.refuseWord w).evs = s.evs ++ [.illegal w] := rfl
@[simp] theorem State.refuseWord_cmds (s : State) (w : Word) : (s.refuseWord w).cmds = s.cmds := rfl
@[simp] theorem State.refuseWord_rxData (s : State) (w : Word) : (s.refuseWord w).rxData = s.rxData := rfl
@[simp] theorem State.refuseWord_txBufs (s : State) (w : Word) : (s.refuseWord w).txBufs = s.txBufs := rfl
@[simp] theorem State.refuseWord_txData (s : State) (w : Word) : (s.refuseWord w).txData = s.txData := rfl

/-! Power-on and reset. -/

@[simp] theorem State.powerOn_cfg (c : Config) : (State.powerOn c).cfg = c := rfl
@[simp] theorem State.powerOn_rx (c : Config) : (State.powerOn c).rx = .reset := rfl
@[simp] theorem State.powerOn_tx (c : Config) : (State.powerOn c).tx = .reset := rfl
@[simp] theorem State.powerOn_evs (c : Config) : (State.powerOn c).evs = [] := rfl
@[simp] theorem State.powerOn_cmds (c : Config) : (State.powerOn c).cmds = [] := rfl
@[simp] theorem RxPath.reset_last : RxPath.reset.last = .low := rfl
@[simp] theorem RxPath.reset_run : RxPath.reset.run = 0#32 := rfl
@[simp] theorem RxPath.reset_pbuf : RxPath.reset.pbuf = [] := rfl
@[simp] theorem TxPath.reset_txq : TxPath.reset.txq = [] := rfl
@[simp] theorem TxPath.reset_off : TxPath.reset.off = 0#32 := rfl

end Sys2Proof.Machine
end

