-- ==== Sys2Proof/Laws/Exec.lean ====
section
/-! SUPPORT. Everything a meaning and a step can do, said once. -/

namespace Sys2Proof.Machine

/-- RX.BURST waits, refuses an odd length, or runs its samples (rule R215). -/
theorem execRxBurst_cases (len : BitVec 24) (s : State) :
    (s.rxData.length < len.toNat ∧ execRxBurst len s = .next s) ∨
    (len.toNat ≤ s.rxData.length ∧ len.toNat % 2 = 1 ∧
      execRxBurst len s = .next ((s.rxDrop len.toNat).emit (.malformed len))) ∨
    (len.toNat ≤ s.rxData.length ∧ len.toNat % 2 = 0 ∧
      execRxBurst len s = .next ((s.rxDrop len.toNat).runReceive (s.rxData.take len.toNat))) := by
  unfold execRxBurst State.rxHolds State.rxTake
  by_cases h : len.toNat ≤ s.rxData.length
  · rcases Nat.mod_two_eq_zero_or_one len.toNat with h2 | h2 <;> simp [h, h2]
  · simp [h]; omega

/-- TX.REQ reports a full queue, fails the construction check, or queues the frame (rule R216). -/
theorem execTxReq_cases (cv : BitVec 4) (s : State) :
    (s.txqFull = true ∧ execTxReq cv s = .next (s.emit (.txqFull cv))) ∨
    (s.txqFull = false ∧ constructedLength s.cfg (frameWord s.cfg cv) ≠ frameLen s.cfg ∧
      execTxReq cv s = .next (s.emit (.mismatch (BitVec.ofNat 32 (constructedLength s.cfg (frameWord s.cfg cv)))
        (BitVec.ofNat 32 (frameLen s.cfg))))) ∨
    (s.txqFull = false ∧ constructedLength s.cfg (frameWord s.cfg cv) = frameLen s.cfg ∧
      execTxReq cv s = .next (s.enqueue cv)) := by
  unfold execTxReq
  cases h : s.txqFull
  · by_cases h2 : constructedLength s.cfg (frameWord s.cfg cv) = frameLen s.cfg <;> simp [h2]
  · simp

/-- A step with a legal configuration waits, runs the decoded operation or reports the word (rules R210, R218). -/
theorem step_cases (s : State) (h : s.cfg.legal = true) :
    (s.cmds = [] ∧ step s = .next s) ∨
    (∃ w ws i, s.cmds = w :: ws ∧ decode w = .ok i ∧ ({ s with cmds := ws } : State).operandsHere i = false ∧
      step s = .next s) ∨
    (∃ w ws i, s.cmds = w :: ws ∧ decode w = .ok i ∧ ({ s with cmds := ws } : State).operandsHere i = true ∧
      step s = exec i { s with cmds := ws }) ∨
    (∃ w ws e, s.cmds = w :: ws ∧ decode w = .error e ∧
      step s = .next (({ s with cmds := ws } : State).refuseWord w)) := by
  unfold step State.hasRun State.fetch
  rw [if_pos h]
  cases hc : s.cmds with
  | nil => exact .inl ⟨rfl, rfl⟩
  | cons w ws =>
    cases hd : decode w with
    | error e => exact .inr (.inr (.inr ⟨w, ws, e, rfl, hd, by simp [hd]⟩))
    | ok i =>
      cases ho : ({ s with cmds := ws } : State).operandsHere i
      · exact .inr (.inl ⟨w, ws, i, rfl, hd, ho, by simp [hd, ho]⟩)
      · exact .inr (.inr (.inl ⟨w, ws, i, rfl, hd, ho, by simp [hd, ho]⟩))

/-- A step outside rule R6's ranges has no run. -/
theorem step_refused (s : State) (h : s.cfg.legal = false) : step s = .refused .illegalConfiguration := by
  simp [step, State.hasRun, h]

end Sys2Proof.Machine
end

