-- ==== Sys2Proof/Laws/FrameDecoder.lean ====
section
/-! SUPPORT. What the parts of a decode attempt can do (`42_frame_decoder.md` rules R142-R150). -/

namespace Sys2Proof.Machine

@[simp] theorem pulseCount_eq : pulseCount = 49 := by decide
@[simp] theorem bitCount_eq : bitCount = 24 := by decide

theorem dropLeadingHigh_suffix (ps : List Pulse) : dropLeadingHigh ps <:+ ps := by
  cases ps with
  | nil => exact List.suffix_refl _
  | cons p rest =>
    by_cases h : p.lvl = .high
    · simp [dropLeadingHigh, h]
    · simp [dropLeadingHigh, h]

theorem dropLeadingHigh_of_low {p : Pulse} (rest : List Pulse) (h : p.lvl = .low) :
    dropLeadingHigh (p :: rest) = p :: rest := by simp [dropLeadingHigh, h]

theorem dropLeadingHigh_of_high {p : Pulse} (rest : List Pulse) (h : p.lvl = .high) :
    dropLeadingHigh (p :: rest) = rest := by simp [dropLeadingHigh, h]

theorem findSync_cons_cons (c : Config) (p q : Pulse) (rest : List Pulse) :
    findSync c (p :: q :: rest) = if isLong c p.n.toNat then p :: q :: rest else findSync c rest := by
  rw [findSync]

/-- The search only drops pulses from the head. -/
theorem findSync_suffix (c : Config) : ∀ ps : List Pulse, findSync c ps <:+ ps
  | [] => List.suffix_refl _
  | [_] => List.suffix_refl _
  | p :: q :: rest => by
    rw [findSync_cons_cons]
    split
    · exact List.suffix_refl _
    · exact (findSync_suffix c rest).trans ((List.suffix_cons q rest).trans (List.suffix_cons p _))

/-- Where the search stops: at a LONG head, or with at most one pulse (rule R144). -/
theorem findSync_stops (c : Config) : ∀ ps : List Pulse,
    (findSync c ps).length ≤ 1 ∨ ∃ p q rest, findSync c ps = p :: q :: rest ∧ isLong c p.n.toNat = true
  | [] => .inl (by simp [findSync])
  | [_] => .inl (by simp [findSync])
  | p :: q :: rest => by
    rw [findSync_cons_cons]
    split
    · next h => exact .inr ⟨p, q, rest, rfl, h⟩
    · exact findSync_stops c rest

theorem readBits_succ (c : Config) (k : Nat) (w : BitVec 24) (l h : Pulse) (rest : List Pulse) :
    readBits c (k + 1) w (l :: h :: rest) =
      match bitOf c h.n.toNat with
      | some b => readBits c k (w.shiftConcat b) rest
      | none => (rest, some (inconclusiveEvent h.n)) := rfl

/-- The bit loop only drops pulses from the head. -/
theorem readBits_suffix (c : Config) : ∀ (k : Nat) (w : BitVec 24) (ps : List Pulse), (readBits c k w ps).1 <:+ ps
  | 0, _, _ => by simp [readBits]
  | _ + 1, _, [] => by simp [readBits]
  | _ + 1, _, [_] => by simp [readBits]
  | k + 1, w, l :: h :: rest => by
    rw [readBits_succ]
    have two : rest <:+ l :: h :: rest := (List.suffix_cons h rest).trans (List.suffix_cons l _)
    split
    · exact (readBits_suffix c k _ rest).trans two
    · exact two

/-- A bit loop that runs on enough pulses consumes at least one pair and reports (rules R146, R148). -/
theorem readBits_event (c : Config) : ∀ (k : Nat) (w : BitVec 24) (ps : List Pulse), 2 * k ≤ ps.length →
    ∃ e, (readBits c k w ps).2 = some e ∧ ((∃ v, e = decodedEvent v) ∨ ∃ n, e = inconclusiveEvent n)
  | 0, w, _, _ => ⟨_, by rw [readBits], .inl ⟨w, rfl⟩⟩
  | k + 1, w, [], h => by simp at h
  | k + 1, w, [_], h => by simp at h; omega
  | k + 1, w, l :: p :: rest, h => by
    rw [readBits_succ]
    split
    · exact readBits_event c k _ rest (by simp at h; omega)
    · exact ⟨_, rfl, .inr ⟨_, rfl⟩⟩

/-- Everything an attempt can do: nothing (step 1), the silent drops of steps 2 and 3, or the bit loop from a LONG
head (rules R142-R146). -/
theorem decodeAttempt_cases (c : Config) (ps : List Pulse) :
    (ps.length < 49 ∧ decodeAttempt c ps = (ps, none)) ∨
    (49 ≤ ps.length ∧ (findSync c (dropLeadingHigh ps)).length < 49 ∧
      decodeAttempt c ps = (findSync c (dropLeadingHigh ps), none)) ∨
    (49 ≤ ps.length ∧ 49 ≤ (findSync c (dropLeadingHigh ps)).length ∧
      decodeAttempt c ps = readBits c 24 0#24 (findSync c (dropLeadingHigh ps))) := by
  unfold decodeAttempt
  simp only [pulseCount_eq, bitCount_eq]
  by_cases h1 : ps.length < 49
  · exact .inl ⟨h1, if_pos h1⟩
  · by_cases h2 : (findSync c (dropLeadingHigh ps)).length < 49
    · exact .inr (.inl ⟨by omega, h2, by simp [h1, h2]⟩)
    · exact .inr (.inr ⟨by omega, by omega, by simp [h1, h2]⟩)

/-- An attempt only shortens the buffer from its head (rule R25). -/
theorem decodeAttempt_suffix (c : Config) (ps : List Pulse) : (decodeAttempt c ps).1 <:+ ps := by
  have drops := (findSync_suffix c (dropLeadingHigh ps)).trans (dropLeadingHigh_suffix ps)
  obtain ⟨-, h⟩ | ⟨-, -, h⟩ | ⟨-, -, h⟩ := decodeAttempt_cases c ps
  · simp [h]
  · simpa [h] using drops
  · simpa [h] using (readBits_suffix c 24 0#24 _).trans drops

/-- An attempt reports DECODED or INCONCLUSIVE or nothing (rules R151, R152). -/
theorem decodeAttempt_event (c : Config) (ps : List Pulse) :
    (decodeAttempt c ps).2 = none ∨ (∃ v, (decodeAttempt c ps).2 = some (decodedEvent v)) ∨
      ∃ n, (decodeAttempt c ps).2 = some (inconclusiveEvent n) := by
  obtain ⟨-, h⟩ | ⟨-, -, h⟩ | ⟨-, long, h⟩ := decodeAttempt_cases c ps
  · exact .inl (by rw [h])
  · exact .inl (by rw [h])
  · rw [h]
    obtain ⟨e, he, ⟨v, rfl⟩ | ⟨n, rfl⟩⟩ :=
      readBits_event c 24 0#24 (findSync c (dropLeadingHigh ps)) (by omega)
    · exact .inr (.inl ⟨v, he⟩)
    · exact .inr (.inr ⟨n, he⟩)

end Sys2Proof.Machine
end

