-- ==== Sys2Proof/Laws/PerInstr.lean ====
section
/-! SUPPORT. Laws of the operations as syntax, one lemma per constructor. `EncodesRow`: an operation's command word
matches the row of rule R75's table that bears its mnemonic. -/

namespace Sys2Proof.Laws.EncodesRow

/-- The word of `i` matches a row of `opcode_table.json` with the mnemonic of `i`. -/
def Statement (i : Instr) : Prop :=
  ∃ r ∈ opcodeTable, r.mnemonic = i.mnemonic ∧ encode i &&& r.mask = r.value

theorem nop : Statement .nop :=
  ⟨⟨"NOP", 0xFFFFFFFF#32, 0x00000000#32⟩, by simp [opcodeTable], rfl, by decide⟩

theorem rstRx : Statement .rstRx :=
  ⟨⟨"RST.RX", 0xFFFFFFFF#32, 0x10000001#32⟩, by simp [opcodeTable], rfl, by decide⟩

theorem rstTx : Statement .rstTx :=
  ⟨⟨"RST.TX", 0xFFFFFFFF#32, 0x10000002#32⟩, by simp [opcodeTable], rfl, by decide⟩

theorem rstAll : Statement .rstAll :=
  ⟨⟨"RST.ALL", 0xFFFFFFFF#32, 0x10000003#32⟩, by simp [opcodeTable], rfl, by decide⟩

theorem append_and_high (hi : BitVec 8) (lo : BitVec 24) :
    (hi ++ lo : BitVec 32) &&& 0xFF000000#32 = hi ++ 0#24 := by
  have mask : (0xFF000000#32) = (BitVec.allOnes 8 ++ 0#24 : BitVec 32) := by decide
  rw [mask, BitVec.and_append, BitVec.and_allOnes, BitVec.and_zero]

theorem rxBurst (len : BitVec 24) : Statement (.rxBurst len) :=
  ⟨⟨"RX.BURST", 0xFF000000#32, 0x20000000#32⟩, by simp [opcodeTable], rfl, by
    show (0x20#8 ++ len : BitVec 32) &&& 0xFF000000#32 = 0x20000000#32
    rw [append_and_high]; decide⟩

theorem txReq (cv : BitVec 4) : Statement (.txReq cv) :=
  ⟨⟨"TX.REQ", 0xFFFFFFF0#32, 0x30000000#32⟩, by simp [opcodeTable], rfl, by
    revert cv; decide⟩

theorem txPull (len : BitVec 24) : Statement (.txPull len) :=
  ⟨⟨"TX.PULL", 0xFF000000#32, 0x40000000#32⟩, by simp [opcodeTable], rfl, by
    show (0x40#8 ++ len : BitVec 32) &&& 0xFF000000#32 = 0x40000000#32
    rw [append_and_high]; decide⟩

end Sys2Proof.Laws.EncodesRow
end

