-- ==== Sys2Proof/Laws/Receive.lean ====
section
/-! SUPPORT. The receive path over samples and bytes (`41_pulse_segmenter.md` rule R120, `20_memory.md` rule R65). -/

namespace Sys2Proof.Machine

/-- Everything one sample can do (rule R120). -/
theorem sampleStep_cases (c : Config) (p : Sample) (r : RxPath) :
    (p.level = r.last ∧ isLong c (r.run + 1#32).toNat = true ∧
      sampleStep c p r = ({ last := r.last, run := BitVec.ofNat 32 (nClamp c), pbuf := [] }, none)) ∨
    (p.level = r.last ∧ isLong c (r.run + 1#32).toNat = false ∧
      sampleStep c p r = ({ last := r.last, run := r.run + 1#32, pbuf := r.pbuf }, none)) ∨
    (p.level ≠ r.last ∧
      sampleStep c p r =
        ({ last := p.level, run := 1#32, pbuf := (decodeAttempt c (r.pbuf ++ [⟨r.last, r.run⟩])).1 },
          (decodeAttempt c (r.pbuf ++ [⟨r.last, r.run⟩])).2)) := by
  unfold sampleStep
  split
  · next h =>
    cases hl : isLong c (r.run + 1#32).toNat
    · exact .inr (.inl ⟨h, rfl, by simp only [extendRun, hl, Bool.false_eq_true, if_false]⟩)
    · exact .inl ⟨h, rfl, by simp only [extendRun, hl, if_true]⟩
  · next h => exact .inr (.inr ⟨h, rfl⟩)

theorem receive_nil (c : Config) (r : RxPath) : receive c [] r = (r, []) := rfl

theorem receive_cons (c : Config) (p : Sample) (ps : List Sample) (r : RxPath) :
    receive c (p :: ps) r =
      ((receive c ps (sampleStep c p r).1).1, (sampleStep c p r).2.toList ++ (receive c ps (sampleStep c p r).1).2) :=
  rfl

/-- Samples run in two parts run as in one (the reason of rule R65). -/
theorem receive_append (c : Config) (ps qs : List Sample) (r : RxPath) :
    receive c (ps ++ qs) r =
      ((receive c qs (receive c ps r).1).1, (receive c ps r).2 ++ (receive c qs (receive c ps r).1).2) := by
  induction ps generalizing r with
  | nil => simp [receive_nil]
  | cons p ps ih => simp [receive_cons, ih]

/-- Bytes split at an even index split into the samples of the parts (rule R52). -/
theorem samplesOf_append : ∀ (a b : List Byte), a.length % 2 = 0 → samplesOf (a ++ b) = samplesOf a ++ samplesOf b
  | [], _, _ => rfl
  | [_], _, h => by simp at h
  | x :: y :: rest, b, h => by
    simp only [List.cons_append, samplesOf_pair]
    rw [samplesOf_append rest b (by simp at h; omega)]

/-- A burst of `2m` bytes has `m` samples (rule R102). -/
theorem samplesOf_length : ∀ a : List Byte, (samplesOf a).length = a.length / 2
  | [] => rfl
  | [_] => by simp [samplesOf]
  | _ :: _ :: rest => by simp [samplesOf_length rest]; omega

/-- LONG is: at least `N_CLAMP` samples. -/
theorem isLong_eq (c : Config) (n : Nat) : isLong c n = decide (nClamp c ≤ n) := by
  unfold isLong nClamp
  congr 1
  exact propext (by omega)

/-- `N_CLAMP` fits the 32-bit run counter, with room for one more sample (rule R24). -/
theorem nClamp_lt (c : Config) (h : c.legal = true) : 4 ≤ nClamp c ∧ nClamp c ≤ 4294968 := by
  rw [Config.legal_iff] at h; simp only [nClamp]; omega

/-- A sample of the other level (rule R121). -/
theorem sampleStep_change (c : Config) (p : Sample) (r : RxPath) (h : p.level ≠ r.last) :
    sampleStep c p r = changeLevel c p.level r := if_neg h

/-- Samples of the current level that do not make the run LONG only lengthen it (rule R122). -/
theorem receive_run_short (c : Config) (hc : c.legal = true) : ∀ (ps : List Sample) (r : RxPath),
    (∀ p ∈ ps, p.level = r.last) → r.run.toNat + ps.length < nClamp c →
    receive c ps r = ({ r with run := BitVec.ofNat 32 (r.run.toNat + ps.length) }, [])
  | [], r, _, _ => by simp [receive_nil]
  | p :: ps, r, hp, hn => by
    have bound := nClamp_lt c hc
    simp only [List.length_cons] at hn
    have run' : (r.run + 1#32).toNat = r.run.toNat + 1 := by
      rw [BitVec.toNat_add]; simp; omega
    obtain ⟨-, h, -⟩ | ⟨-, -, h⟩ | ⟨h, -⟩ := sampleStep_cases c p r
    · rw [isLong_eq, run'] at h; simp at h; omega
    · have rest := receive_run_short c hc ps { r with run := r.run + 1#32 } (fun q hq => hp q (by simp [hq]))
        (by simp only [run']; omega)
      have sum : r.run.toNat + (p :: ps).length = r.run.toNat + 1 + ps.length := by simp; omega
      rw [receive_cons, h, rest, run', sum]
      rfl
    · exact absurd (hp p (by simp)) h

/-- Samples of the current level that make the run LONG empty the buffer and clamp the run, and further ones keep it
so (rules R122, R125). -/
theorem receive_run_long (c : Config) (hc : c.legal = true) : ∀ (ps : List Sample) (r : RxPath),
    (∀ p ∈ ps, p.level = r.last) → r.run.toNat ≤ nClamp c → (r.run.toNat = nClamp c → r.pbuf = []) →
    nClamp c ≤ r.run.toNat + ps.length →
    receive c ps r = ({ last := r.last, run := BitVec.ofNat 32 (nClamp c), pbuf := [] }, [])
  | [], r, _, hr, hb, hn => by
    have e : r.run.toNat = nClamp c := by simp at hn; omega
    have : r = { last := r.last, run := BitVec.ofNat 32 (nClamp c), pbuf := [] } := by
      rw [← e, BitVec.ofNat_toNat, BitVec.setWidth_eq, ← hb e]
    rw [receive_nil, ← this]
  | p :: ps, r, hp, hr, hb, hn => by
    have bound := nClamp_lt c hc
    simp only [List.length_cons] at hn
    have run' : (r.run + 1#32).toNat = r.run.toNat + 1 := by
      rw [BitVec.toNat_add]; simp; omega
    have clamp : (BitVec.ofNat 32 (nClamp c)).toNat = nClamp c := by simp; omega
    obtain ⟨-, -, h⟩ | ⟨-, hl, h⟩ | ⟨h, -⟩ := sampleStep_cases c p r
    · have rest := receive_run_long c hc ps { last := r.last, run := BitVec.ofNat 32 (nClamp c), pbuf := [] }
        (fun q hq => hp q (by simp [hq])) (by simp only [clamp]; omega) (fun _ => rfl) (by simp only [clamp]; omega)
      rw [receive_cons, h, rest]
      rfl
    · rw [isLong_eq, run'] at hl; simp at hl
      have rest := receive_run_long c hc ps { last := r.last, run := r.run + 1#32, pbuf := r.pbuf }
        (fun q hq => hp q (by simp [hq])) (by simp only [run']; omega) (fun e => by simp only [run'] at e; omega)
        (by simp only [run']; omega)
      rw [receive_cons, h, rest]
      rfl
    · exact absurd (hp p (by simp)) h

end Sys2Proof.Machine
end

