-- ==== Sys2Proof/Laws/Transmit.lean ====
section
/-! SUPPORT. Frames and the feeder (`43_frame_encoder.md` rules R172, R173; `44_stream_feeder.md` rule R190). -/

namespace Sys2Proof.Machine

theorem frameLen_eq (c : Config) : frameLen c = 220 * ival c := by
  simp only [frameLen, frameIntervals, bitCount]; omega

@[simp] theorem frameSlice_length (c : Config) (cv : BitVec 4) (off m : Nat) : (frameSlice c cv off m).length = m := by
  simp [frameSlice]

@[simp] theorem frame_length (c : Config) (cv : BitVec 4) : (frame c cv).length = frameLen c := by
  simp [frame]

/-- A slice inside the frame is that part of the frame. -/
theorem frameSlice_eq_take_drop (c : Config) (cv : BitVec 4) (off m : Nat) (h : off + m ≤ frameLen c) :
    frameSlice c cv off m = ((frame c cv).drop off).take m := by
  apply List.ext_getElem
  · simp; omega
  · intro k h1 h2
    simp [frame, frameSlice]

/-- The two spans of a bit last four unit intervals (rule R171). -/
theorem bitSpans_intervals (b : Bool) : ((bitSpans b).map Span.intervals).sum = 4 := by cases b <;> rfl

theorem feedQueue_nil (c : Config) (off n : Nat) : feedQueue c [] off n = ([], [], off) := rfl

theorem feedQueue_zero (c : Config) (q : List (BitVec 4)) (off : Nat) : feedQueue c q off 0 = ([], q, off) := by
  cases q <;> simp [feedQueue]

/-- A pull that the head frame can serve without being finished (rule R190). -/
theorem feedQueue_within (c : Config) (cv : BitVec 4) (rest : List (BitVec 4)) (off n : Nat)
    (h : off + n < frameLen c) : feedQueue c (cv :: rest) off n = (frameSlice c cv off n, cv :: rest, off + n) := by
  by_cases hn : n = 0
  · subst hn; simp [feedQueue, frameSlice]
  · have hm : min (frameLen c - off) n = n := by omega
    have hne : ¬ off + n = frameLen c := by omega
    simp [feedQueue, hn, hm, hne]

/-- A pull that finishes the head frame dequeues it and goes on with the next (rules R190, R191, R193). -/
theorem feedQueue_beyond (c : Config) (cv : BitVec 4) (rest : List (BitVec 4)) (off n : Nat)
    (hoff : off < frameLen c) (h : frameLen c ≤ off + n) :
    feedQueue c (cv :: rest) off n =
      (frameSlice c cv off (frameLen c - off) ++ (feedQueue c rest 0 (n - (frameLen c - off))).1,
        (feedQueue c rest 0 (n - (frameLen c - off))).2) := by
  have hn : n ≠ 0 := by omega
  have hm : min (frameLen c - off) n = frameLen c - off := by omega
  have he : off + (frameLen c - off) = frameLen c := by omega
  simp [feedQueue, hn, hm, he]

end Sys2Proof.Machine
end

