-- ==== Sys2Proof/Tests/Slice0.lean ====
section
/-! SUPPORT. Tests. Every expected result is from the spec: the vectors of `95_test_vectors.md` (named V-… or L1-…), the
examples of the rules, or words written out from rules R74-R81. The last part holds one witness per statement that has
hypotheses. -/

namespace Sys2Proof.Tests

open Sys2Proof Sys2Proof.Machine

/-! ## Helpers -/

/-- The vectors' configuration at sample rate `fs`. -/
def rate (fs : Nat) : Config := { fs := fs, deviceId := 0x12345#20 }

/-- The same with a queue of depth `d`. -/
def rateDepth (fs d : Nat) : Config := { fs := fs, deviceId := 0x12345#20, txqDepth := .frames d }

/-- `P(W)` of `95_test_vectors.md`, with the sync's and the intervals' sample counts as arguments. -/
def framePulses (sync short long : Word) (w : BitVec 24) : List Pulse :=
  ⟨.low, sync⟩ :: (List.range 24).flatMap fun j =>
    if w.getLsbD (23 - j) then [⟨.high, short⟩, ⟨.low, long⟩] else [⟨.high, long⟩, ⟨.low, short⟩]

/-- `P(W)` at FS = 100000. -/
def pulsesP (w : BitVec 24) : List Pulse := framePulses 201#32 32#32 96#32 w

/-- `n` pulses of 10 samples, the first of level `l`. -/
def noise (l : Level) : Nat → List Pulse
  | 0 => []
  | n + 1 => ⟨l, 10#32⟩ :: noise l.flip n

/-- Power-on at `fs`, with RX data and command words on the channels. -/
def waiting (c : Config) (cmds : List Word) (rxData : List Byte) : State :=
  { State.powerOn c with cmds := cmds, rxData := rxData }

/-- Power-on with a transmit queue, a cursor and host buffers. -/
def sending (c : Config) (txq : List (BitVec 4)) (off : Word) (bufs : List (List Byte)) : State :=
  { State.powerOn c with tx := ⟨txq, off⟩, txBufs := bufs }

/-- The transmit path and the TX data an answer leaves. -/
def sent (o : Host.Outcome State Fault Refusal) : Option (TxPath × List TxReply) :=
  (after o).map fun s => (s.tx, s.txData)

/-- The receive path and the events an answer leaves. -/
def received (o : Host.Outcome State Fault Refusal) : Option (RxPath × List Event) :=
  (after o).map fun s => (s.rx, s.evs)

/-! ## WellFormed refuses what rules R6, R78 and R79 rule out -/

theorem test_fs_low_refused : (rate 1562).legal = false := by decide
theorem test_fs_low_accepted : (rate 1563).legal = true := by decide
theorem test_fs_high_refused : (rate 2147483648).legal = false := by decide
theorem test_fs_high_accepted : (rate 2147483647).legal = true := by decide
theorem test_depth_zero_refused : (rateDepth 100000 0).legal = false := by decide
theorem test_depth_one_accepted : (rateDepth 100000 1).legal = true := by decide
theorem test_burst_short_data_refused : (Command.issue (.rxBurst 3#24) [1, 2] []).wellFormed = false := by decide
theorem test_burst_with_buffer_refused : (Command.issue (.rxBurst 2#24) [1, 2] [0]).wellFormed = false := by decide
theorem test_burst_accepted : (Command.issue (.rxBurst 3#24) [1, 2, 3] []).wellFormed = true := by decide
theorem test_pull_short_buffer_refused : (Command.issue (.txPull 3#24) [] [0, 0]).wellFormed = false := by decide
theorem test_pull_with_data_refused : (Command.issue (.txPull 1#24) [9] [0]).wellFormed = false := by decide
theorem test_pull_accepted : (Command.issue (.txPull 2#24) [] [0, 0]).wellFormed = true := by decide
theorem test_others_with_data_refused :
    (∀ i ∈ [Instr.nop, .rstRx, .rstTx, .rstAll, .txReq 0xA#4], (Command.issue i [1] []).wellFormed = false) ∧
      ∀ i ∈ [Instr.nop, .rstRx, .rstTx, .rstAll, .txReq 0xA#4], (Command.issue i [] [1]).wellFormed = false := by decide

/-! ## Decode: words written out from rules R74-R77 -/

theorem test_decode_nop : decode 0b0000_0000_0000_0000_0000_0000_0000_0000#32 = .ok .nop := by decide
theorem test_decode_rstRx : decode 0b0001_0000_0000_0000_0000_0000_0000_0001#32 = .ok .rstRx := by decide
theorem test_decode_rstTx : decode 0b0001_0000_0000_0000_0000_0000_0000_0010#32 = .ok .rstTx := by decide
theorem test_decode_rstAll : decode 0b0001_0000_0000_0000_0000_0000_0000_0011#32 = .ok .rstAll := by decide
theorem test_decode_rxBurst :
    decode 0b0010_0000_1000_0000_0000_0000_0000_0001#32 = .ok (.rxBurst 0x800001#24) := by decide
theorem test_decode_txReq : decode 0b0011_0000_0000_0000_0000_0000_0000_1001#32 = .ok (.txReq 9#4) := by decide
theorem test_decode_txPull :
    decode 0b0100_0000_0000_0000_0001_0000_0000_0010#32 = .ok (.txPull 4098#24) := by decide

/-- One word of each group of rule R77, and the groups' borders (V-OPS-10 to V-OPS-15). -/
theorem test_decode_refuses_by_name :
    decode 0x00000001#32 = .error .nopBits ∧ decode 0x10000000#32 = .error .resetSelector ∧
    decode 0x10000004#32 = .error .resetSelector ∧ decode 0x11000001#32 = .error .resetSelector ∧
    decode 0x21000000#32 = .error .burstReserved ∧ decode 0x30000010#32 = .error .requestReserved ∧
    decode 0x48000000#32 = .error .pullReserved ∧ decode 0x50000000#32 = .error .unusedOpcode ∧
    decode 0xFFFFFFFF#32 = .error .unusedOpcode := by decide

/-- Rule R54: the first byte is the least significant. -/
theorem test_decode_bytes :
    decodeBytes [0x0A, 0x00, 0x00, 0x30, 0x77] = .ok (.txReq 0xA#4, [0x77]) ∧
      decodeBytes [0x0A, 0x00, 0x00] = .error .truncatedWord := by decide

theorem test_table_word :
    decodeTableWord 32 0x3000000A = some (.txReq 0xA#4) ∧ decodeTableWord 32 0x10000000 = none := by decide

/-! ## ENV: the V-ENV vectors -/

theorem test_env_low :
    power (s8 0x00#8) (s8 0x00#8) = 0 ∧ classify (s8 0x00#8) (s8 0x00#8) = .low ∧
    power (s8 0x3B#8) (s8 0x00#8) = 3481 ∧ classify (s8 0x3B#8) (s8 0x00#8) = .low ∧
    power (s8 0x00#8) (s8 0xC5#8) = 3481 ∧ classify (s8 0x00#8) (s8 0xC5#8) = .low ∧
    power (s8 0x13#8) (s8 0x38#8) = 3497 ∧ classify (s8 0x13#8) (s8 0x38#8) = .low := by
  refine ⟨?_, ?_, ?_, ?_, ?_, ?_, ?_, ?_⟩ <;> decide

theorem test_env_high :
    power (s8 0x1E#8) (s8 0x33#8) = 3501 ∧ classify (s8 0x1E#8) (s8 0x33#8) = .high ∧
    power (s8 0x33#8) (s8 0xE2#8) = 3501 ∧ classify (s8 0x33#8) (s8 0xE2#8) = .high ∧
    power (s8 0x3C#8) (s8 0x00#8) = 3600 ∧ classify (s8 0x3C#8) (s8 0x00#8) = .high ∧
    power (s8 0x00#8) (s8 0xC4#8) = 3600 ∧ classify (s8 0x00#8) (s8 0xC4#8) = .high ∧
    power (s8 0x7F#8) (s8 0x7F#8) = 32258 ∧ classify (s8 0x7F#8) (s8 0x7F#8) = .high ∧
    power (s8 0x80#8) (s8 0x80#8) = 32768 ∧ classify (s8 0x80#8) (s8 0x80#8) = .high ∧
    power (s8 0x7F#8) (s8 0x00#8) = 16129 ∧ classify (s8 0x7F#8) (s8 0x00#8) = .high := by
  refine ⟨?_, ?_, ?_, ?_, ?_, ?_, ?_, ?_, ?_, ?_, ?_, ?_, ?_, ?_⟩ <;> decide

/-! ## Timing: rules R8, R11 and V-ENC-4 -/

theorem test_constants :
    [2000, 23437, 23438, 25000, 100000, 2000000].map (fun fs => (ival (rate fs), nClamp (rate fs), frameLen (rate fs))) =
      [(1, 5, 220), (7, 47, 1540), (8, 47, 1760), (8, 51, 1760), (32, 201, 7040), (640, 4001, 140800)] := by decide

/-- Rule R11's row for FS = 100000, at both ends of each band. -/
theorem test_bands :
    [25, 26, 42, 43].map (isOne (rate 100000)) = [false, true, true, false] ∧
    [90, 91, 114, 115].map (isZero (rate 100000)) = [false, true, true, false] ∧
    [200, 201].map (isLong (rate 100000)) = [false, true] := by decide

/-! ## SEG and RX.BURST -/

/-- The rule R129 trace, V-SEG-1, as one burst at FS = 2000. -/
theorem test_rxBurst_trace :
    received (exec (.rxBurst 18#24)
      (waiting (rate 2000) [] (levelSamples .high 2 ++ levelSamples .low 6 ++ levelSamples .high 1))) =
      some (⟨.high, 1#32, [⟨.low, 5#32⟩]⟩, []) := by decide

/-- V-OPS-5: an odd burst; its bytes leave the channel and the next byte stays. -/
theorem test_rxBurst_odd :
    after (exec (.rxBurst 3#24) (waiting (rate 100000) [] [0x7F, 0x7F, 0x7F, 0x11])) =
      some { waiting (rate 100000) [] [0x11] with evs := [.malformed 3#24] } := by decide

/-- V-SEG-2 and V-SEG-5 at their edges: the first HIGH leaves (LOW,0); 200 samples do not reset, 201 do. -/
theorem test_sample_edges :
    sampleStep (rate 100000) ⟨127, 127⟩ .reset = (⟨.high, 1#32, [⟨.low, 0#32⟩]⟩, none) ∧
    sampleStep (rate 100000) ⟨0, 0⟩ ⟨.low, 199#32, [⟨.high, 1#32⟩]⟩ = (⟨.low, 200#32, [⟨.high, 1#32⟩]⟩, none) ∧
    sampleStep (rate 100000) ⟨0, 0⟩ ⟨.low, 200#32, [⟨.high, 1#32⟩]⟩ = (⟨.low, 201#32, []⟩, none) ∧
    sampleStep (rate 100000) ⟨0, 0⟩ ⟨.low, 201#32, []⟩ = (⟨.low, 201#32, []⟩, none) := by decide

/-- Program P5's report: at FS = 2000 the 49th pulse makes the attempt stop at bit 1, a HIGH of 3 samples. -/
theorem test_p5_inconclusive :
    sampleStep (rate 2000) ⟨127, 127⟩ ⟨.low, 1#32, (framePulses 5#32 1#32 3#32 0x12345A#24).take 48⟩ =
      (⟨.high, 1#32, (framePulses 5#32 1#32 3#32 0x12345A#24).drop 2⟩, some (.inconclusive 3#28)) := by decide

/-! ## DEC: the V-DEC vectors -/

theorem test_dec_1 :
    decodeAttempt (rate 100000) (pulsesP 0x12345A#24) =
      ([⟨.low, 32#32⟩], some (.decoded 0x12345#20 0xA#4)) := by decide

theorem test_dec_2 :
    (decodeAttempt (rate 100000) ((pulsesP 0x12345A#24).set 5 ⟨.high, 50#32⟩)).2 = some (.inconclusive 50#28) ∧
    (decodeAttempt (rate 100000) ((pulsesP 0x12345A#24).set 5 ⟨.high, 50#32⟩)).1.length = 43 ∧
    (decodeAttempt (rate 100000) ((pulsesP 0x12345A#24).set 5 ⟨.high, 50#32⟩)).1.take 2 =
      [⟨.low, 32#32⟩, ⟨.high, 32#32⟩] := by decide

/-- V-DEC-2b and V-DEC-2c: the first and the last bit. -/
theorem test_dec_2bc :
    decodeAttempt (rate 100000) ((pulsesP 0x12345A#24).set 1 ⟨.high, 201#32⟩) =
      ((pulsesP 0x12345A#24).drop 2, some (.inconclusive 201#28)) ∧
    decodeAttempt (rate 100000) ((pulsesP 0x12345A#24).set 47 ⟨.high, 115#32⟩) =
      ([⟨.low, 32#32⟩], some (.inconclusive 115#28)) := by decide

theorem test_dec_3 :
    decodeAttempt (rate 100000) ([⟨.high, 5#32⟩, ⟨.low, 10#32⟩, ⟨.high, 10#32⟩, ⟨.low, 7#32⟩, ⟨.high, 12#32⟩] ++
      pulsesP 0x12345A#24) = ([⟨.low, 32#32⟩], some (.decoded 0x12345#20 0xA#4)) := by decide

/-- V-DEC-4, V-DEC-4b, V-DEC-5 and V-DEC-5b: the silent outcomes. -/
theorem test_dec_silent :
    decodeAttempt (rate 100000) (noise .low 49) = ([⟨.low, 10#32⟩], none) ∧
    decodeAttempt (rate 100000) (noise .high 49) = ([], none) ∧
    decodeAttempt (rate 100000) ((pulsesP 0x12345A#24).take 48) = ((pulsesP 0x12345A#24).take 48, none) ∧
    decodeAttempt (rate 100000) ((pulsesP 0x12345A#24).set 0 ⟨.low, 200#32⟩) = ([⟨.low, 32#32⟩], none) := by decide

/-- V-DEC-6: the band edges at the last bit. -/
theorem test_dec_6 :
    [25#32, 26#32, 42#32, 43#32, 90#32, 91#32, 114#32, 115#32].map
      (fun n => (decodeAttempt (rate 100000) ((pulsesP 0#24).set 47 ⟨.high, n⟩)).2) =
      [some (.inconclusive 25#28), some (.decoded 0#20 1#4), some (.decoded 0#20 1#4), some (.inconclusive 43#28),
       some (.inconclusive 90#28), some (.decoded 0#20 0#4), some (.decoded 0#20 0#4),
       some (.inconclusive 115#28)] := by decide

/-- V-DEC-7: the order of the bits. -/
theorem test_dec_7 :
    (decodeAttempt (rate 100000) (pulsesP 0x000001#24)).2 = some (.decoded 0#20 1#4) ∧
    (decodeAttempt (rate 100000) (pulsesP 0x800000#24)).2 = some (.decoded 0x80000#20 0#4) ∧
    (decodeAttempt (rate 100000) (pulsesP 0xFFFFFF#24)).2 = some (.decoded 0xFFFFF#20 0xF#4) := by decide

/-! ## ENC -/

/-- V-ENC-2: bytes of `FRAME(0xA)`. -/
theorem test_frame_bytes :
    [0, 63, 64, 895, 896, 1087, 1088, 1151, 1152, 7039].map (frameByte (rate 100000) 0xA#4) =
      [0x7F, 0x7F, 0x00, 0x00, 0x7F, 0x7F, 0x00, 0x00, 0x7F, 0x00] := by decide

/-- V-ENC-1: the first runs and the last of `FRAME(0xA)`, in intervals. -/
theorem test_schedule :
    (schedule (frameWord (rate 100000) 0xA#4)).take 12 =
      [⟨.high, 1⟩, ⟨.low, 13⟩, ⟨.high, 3⟩, ⟨.low, 1⟩, ⟨.high, 3⟩, ⟨.low, 1⟩, ⟨.high, 3⟩, ⟨.low, 1⟩,
       ⟨.high, 1⟩, ⟨.low, 3⟩, ⟨.high, 3⟩, ⟨.low, 1⟩] ∧
    (schedule (frameWord (rate 100000) 0xA#4)).drop 46 = [⟨.high, 1⟩, ⟨.low, 3⟩, ⟨.high, 3⟩, ⟨.low, 1⟩] := by decide

/-! ## TX.REQ, TX.PULL and FEED -/

/-- V-OPS-7. -/
theorem test_txReq_queues :
    after (exec (.txReq 0xA#4) (State.powerOn (rate 100000))) = some (sending (rate 100000) [0xA#4] 0#32 []) := by decide

/-- V-OPS-8. -/
theorem test_txReq_full :
    after (exec (.txReq 6#4) (sending (rateDepth 100000 1) [0xA#4] 0#32 [])) =
      some { sending (rateDepth 100000 1) [0xA#4] 0#32 [] with evs := [.txqFull 6#4] } := by decide

/-- V-FEED-2, the third pull (from byte 64), and its last one's wrap-up seen from 2 bytes before the end of a frame:
the host's fill 55 stays behind the bytes written, and the frame is dequeued. -/
theorem test_txPull_fill :
    sent (exec (.txPull 2#24) (sending (rate 100000) [0xA#4] 64#32 [[0x55, 0x55]])) =
      some (⟨[0xA#4], 66#32⟩, [⟨[0x00, 0x00], [0x00, 0x00]⟩]) ∧
    sent (exec (.txPull 4#24) (sending (rate 100000) [0xA#4] 7038#32 [[0x55, 0x55, 0x55, 0x55]])) =
      some (⟨[], 0#32⟩, [⟨[0x00, 0x00], [0x00, 0x00, 0x55, 0x55]⟩]) := by decide

/-- Rule R193: the byte after a frame's last is the next frame's first, in the same pull. Rule R197's second row in
small: FS = 2000, frames of 220 bytes; the first byte is the Q byte of the last wide mark (rule R57). -/
theorem test_txPull_crosses_frames :
    sent (exec (.txPull 6#24) (sending (rate 2000) [0xA#4, 3#4] 217#32 [[1, 1, 1, 1, 1, 1]])) =
      some (⟨[3#4], 3#32⟩, [⟨[0x7F, 0x00, 0x00, 0x7F, 0x7F, 0x00], [0x7F, 0x00, 0x00, 0x7F, 0x7F, 0x00]⟩]) := by decide +kernel

/-- V-FEED-3. -/
theorem test_txPull_empty :
    sent (exec (.txPull 4#24) (sending (rate 100000) [] 0#32 [[0xAA, 0xAA, 0xAA, 0xAA]])) =
      some (⟨[], 0#32⟩, [⟨[], [0xAA, 0xAA, 0xAA, 0xAA]⟩]) := by decide

/-- V-OPS-9: the count on a byte transport. -/
theorem test_reply_transport : wordBytes (BitVec.ofNat 32 4096) = [0x00, 0x10, 0x00, 0x00] := by decide

/-! ## The control operations, through `step` -/

/-- A state of the vectors V-OPS-1 to V-OPS-4: 2 pulses, a queue and a cursor, one event. -/
def busy (cmds : List Word) : State :=
  { State.powerOn (rate 100000) with
    rx := ⟨.high, 7#32, [⟨.low, 201#32⟩, ⟨.high, 32#32⟩, ⟨.low, 9#32⟩]⟩
    tx := ⟨[0xA#4, 3#4], 5000#32⟩
    evs := [.malformed 3#24]
    cmds := cmds }

theorem test_nop : after (step (busy [0x00000000#32])) = some (busy []) := by decide
theorem test_rstRx : after (step (busy [0x10000001#32])) = some { busy [] with rx := ⟨.low, 0#32, []⟩ } := by decide
theorem test_rstTx : after (step (busy [0x10000002#32])) = some { busy [] with tx := ⟨[], 0#32⟩ } := by decide
theorem test_rstAll :
    after (step (busy [0x10000003#32])) =
      some { State.powerOn (rate 100000) with evs := [.malformed 3#24] } := by decide

/-- V-OPS-12: an illegal word takes no data byte, and the next word is next. -/
theorem test_illegal :
    after (step (waiting (rate 100000) [0x21000000#32, 0x00000000#32] [0x7F])) =
      some { waiting (rate 100000) [0x00000000#32] [0x7F] with evs := [.illegal 0x21000000#32] } := by decide

theorem test_fetch_word :
    (after (step (State.reset.withFetchWord 32 0x3000000A))).map (fun s => s.tx.txq) = some [0xA#4] ∧
    (after (step (State.reset.withFetchWord 32 0x20000003))).map (fun s => s.evs) = some [.malformed 3#24] := by decide

/-! ## The host adapter, the event words and the scripts -/

/-- The lines of `95_test_vectors.md` after V-OPS-15. -/
theorem test_input_lines :
    [['a', '\n'], ['A', '\r', '\n'], ['7', '\n']].map inputLine =
      [[.issue (.txReq 0xA#4) [] []], [.issue (.txReq 0xA#4) [] []], [.issue (.txReq 7#4) [] []]] ∧
    [[], [' ', 'a'], ['a', 'b'], ['g'], ['0', 'x', '1']].map inputLine = [[], [], [], [], []] := by decide

/-- Rule R84's events and V-OPS-10, V-OPS-8. -/
theorem test_event_words :
    eventStream [.decoded 0x12345#20 0xA#4, .inconclusive 50#28, .malformed 3#24, .illegal 0x10000000#32, .txqFull 6#4,
        .mismatch 1#32 2#32] =
      [0x1012345A#32, 0x20000032#32, 0x40000003#32, 0x50000000#32, 0x10000000#32, 0x60000006#32, 0x30000000#32, 1#32,
       2#32] := by decide

/-- L1-P4: an INCONCLUSIVE of 50 samples is reported as 0.5 ms. -/
theorem test_console_duration :
    Event.console (rate 100000) (.inconclusive 50#28) = some (.inconclusive (1 / 2)) := by
  simp only [Event.console, rate, BitVec.toNat_ofNat]
  norm_num

/-- Rule R82: a comment, a continued data list, a fill byte, a raw word; rule R83's pseudo-instructions. -/
theorem test_script_text :
    parseScript "RX.BURST 7F H*1 ; data\n L*2 S(-3,4)*1\nTX.PULL 3 55\n.word 50000000\nTX.SEND A\nRST".toList =
      some [.rxBurst [.byte 0x7F, .high 1, .low 2, .samples (-3) 4 1], .txPull 3 0x55, .word 0x50000000#32,
        .txSend 0xA#4, .rst] := by decide

theorem test_script_refuses :
    parseScript "TX.REQ AB".toList = none ∧ parseScript "tx.req A".toList = none ∧
    assemble (rate 100000) [.txPull 16777216 0] = none := by decide

/-- Programs P3 and P4 (lines 2 to 4): what the assembler issues. -/
theorem test_assemble :
    assemble (rate 100000) [.rst, .rxBurst [.byte 0, .byte 0, .byte 0], .word 0x50000000#32, .txSend 0xA#4, .txPull 3 0x55] =
      some [.issue .rstAll [] [], .issue (.rxBurst 3#24) [0, 0, 0] [], .word 0x50000000#32, .issue (.txReq 0xA#4) [] [],
        .issue (.txReq 0xA#4) [] [], .issue (.txPull 3#24) [] [0x55, 0x55, 0x55]] := by decide

/-! ## Witnesses: a concrete state and operands that meet all hypotheses of each statement -/

/-- FS = 100000, UNBOUNDED. -/
def base : Config := rate 100000

theorem base_legal : base.legal = true := by decide

/-- An answer whose next state is known is that next state. -/
theorem next_of_after {o : Host.Outcome State Fault Refusal} {t : State} (h : after o = some t) : o = .next t := by
  cases o with
  | next s => exact congrArg _ (Option.some.inj h)
  | fault r => exact absurd h (by simp [after])
  | refused r => exact absurd h (by simp [after])

theorem witness_StepRunsDecodedOperation :
    ∃ (s : State) (w : Word) (ws : List Word) (i : Instr), s.cfg.legal = true ∧ s.cmds = w :: ws ∧ decode w = .ok i ∧
      ∀ len, i = .rxBurst len → len.toNat ≤ s.rxData.length :=
  ⟨waiting base [0x20000002#32] [0x7F, 0x7F], 0x20000002#32, [], .rxBurst 2#24, base_legal, rfl, by decide, by
    rintro len ⟨⟩; decide⟩

theorem witness_StepWaitsForItsInputs :
    (∃ s : State, s.cfg.legal = true ∧ s.cmds = []) ∧
    ∃ (s : State) (w : Word) (ws : List Word) (len : BitVec 24),
      s.cfg.legal = true ∧ s.cmds = w :: ws ∧ decode w = .ok (.rxBurst len) ∧ s.rxData.length < len.toNat :=
  ⟨⟨.powerOn base, base_legal, rfl⟩,
    waiting base [0x20000002#32] [0x7F], 0x20000002#32, [], 2#24, base_legal, rfl, by decide, by decide⟩

theorem witness_IllegalWordIsReported :
    ∃ (s : State) (w : Word) (ws : List Word), s.cfg.legal = true ∧ s.cmds = w :: ws ∧
      ∀ r ∈ opcodeTable, r.matchesWord w = false :=
  ⟨waiting base [0x30000010#32] [], 0x30000010#32, [], base_legal, rfl, by decide⟩

/-- One state for each way out of rule R6's ranges, at its border. -/
theorem witness_IllegalConfigurationHasNoRun :
    (State.powerOn (rate 1562)).cfg.fs < 1563 ∧ 2147483647 < (State.powerOn (rate 2147483648)).cfg.fs ∧
      (State.powerOn (rateDepth 100000 0)).cfg.txqDepth = .frames 0 := by decide

theorem witness_NoErrorStopsTheCore : ∃ s : State, s.cfg.legal = true := ⟨.powerOn base, base_legal⟩

theorem witness_StepOnlyAppendsReports : ∃ s t : State, step s = .next t ∧ t.evs ≠ s.evs :=
  ⟨waiting base [0x50000000#32] [], { State.powerOn base with evs := [.illegal 0x50000000#32] }, rfl, by decide⟩

theorem witness_IssuedOperationRunsNext :
    ∃ (s : State) (i : Instr) (d b : List Byte), s.cfg.legal = true ∧ s.cmds = [] ∧
      (Command.issue i d b).wellFormed = true :=
  ⟨.powerOn base, .txPull 3#24, [], [1, 2, 3], base_legal, rfl, by decide⟩

theorem witness_DecodeAndEncodeAgree : ∃ (w : Word) (i : Instr), decode w = .ok i :=
  ⟨0x2000ABCD#32, .rxBurst 0xABCD#24, by decide⟩

theorem witness_OpcodeRowsAreDisjoint :
    ∃ (w : Word) (r : OpcodeRow), r ∈ opcodeTable ∧ r.matchesWord w = true :=
  ⟨0x3000000F#32, ⟨"TX.REQ", 0xFFFFFFF0#32, 0x30000000#32⟩, by decide, by decide⟩

theorem witness_EventStreamIsUniquelyReadable : ∃ a b : List Event, eventStream a = eventStream b ∧ a ≠ [] :=
  ⟨[.malformed 3#24], [.malformed 3#24], rfl, by decide⟩

theorem witness_WordsTravelLittleEndian : ∃ r : TxReply, r.bytes.length < 2 ^ 32 := ⟨⟨[0x7F], [0x7F]⟩, by decide⟩

/-- Both ends of `FS`'s range, and the least LONG count. -/
theorem witness_DerivedConstantsAreTheRoundings :
    (rate 1563).legal = true ∧ (rate 2147483647).legal = true ∧ isLong (rate 1563) 4 = true := by decide

theorem witness_DurationTestsAreExact : (rate 1563).legal = true ∧ (rate 2147483647).legal = true := by decide

theorem witness_EncoderTimingFitsTheDecoder :
    ((rate 23438).legal = true ∧ 23438 ≤ (rate 23438).fs) ∧ (rate 23437).fs = 23437 := by decide

/-- The run goes on, and the run is cut at `N_CLAMP`: a run of 199 and one of 200 samples before the sample. -/
theorem witness_SameLevelSampleExtendsTheRun :
    ∀ n ∈ [199#32, 200#32], ∃ (s : State) (bi bq : Byte) (rest : List Byte),
      s.rxData = bi :: bq :: rest ∧ classify (s8 bi) (s8 bq) = s.rx.last ∧ s.rx.run = n ∧ s.cfg = base := by
  intro n _
  exact ⟨{ waiting base [] [0x00, 0x00] with rx := ⟨.low, n, []⟩ }, 0x00, 0x00, [], rfl, by
    show classify (s8 0x00#8) (s8 0x00#8) = .low; decide, rfl, rfl⟩

theorem witness_LevelChangeAppendsOnePulse :
    ∃ (s : State) (bi bq : Byte) (rest : List Byte), s.rxData = bi :: bq :: rest ∧
      classify (s8 bi) (s8 bq) ≠ s.rx.last :=
  ⟨waiting base [] [0x7F, 0x7F], 0x7F, 0x7F, [], rfl, by decide⟩

/-- A LOW and a HIGH first sample. -/
theorem witness_FirstSampleAfterResetStartsARun :
    ∀ b ∈ [0x00#8, 0x7F#8], ∃ (s : State) (rest : List Byte),
      s.cfg.legal = true ∧ s.rxData = b :: b :: rest ∧ s.rx = ⟨.low, 0#32, []⟩ := by
  intro b _
  exact ⟨waiting base [] [b, b], [], base_legal, rfl, rfl⟩

theorem witness_EvenBurstRunsItsSamples :
    ∃ (s : State) (len : BitVec 24), len.toNat ≤ s.rxData.length ∧ len.toNat % 2 = 0 ∧ len ≠ 0#24 :=
  ⟨waiting base [] [0x7F, 0x7F], 2#24, by decide⟩

theorem witness_OddBurstIsRefusedWhole :
    ∃ (s : State) (len : BitVec 24), len.toNat ≤ s.rxData.length ∧ len.toNat % 2 = 1 :=
  ⟨waiting base [] [0x7F], 1#24, by decide⟩

/-- Two even parts, and two odd ones. -/
theorem witness_BurstBoundariesCarryNoMeaning :
    ∃ (s : State) (m n m' n' : BitVec 24),
      (m.toNat + n.toNat < 2 ^ 24 ∧ m.toNat + n.toNat ≤ s.rxData.length ∧ m.toNat % 2 = 0 ∧ n.toNat % 2 = 0) ∧
      (m'.toNat + n'.toNat < 2 ^ 24 ∧ m'.toNat + n'.toNat ≤ s.rxData.length ∧ m'.toNat % 2 = 1 ∧ n'.toNat % 2 = 1) :=
  ⟨waiting base [] [1, 2, 3, 4], 2#24, 2#24, 1#24, 3#24, by decide⟩

theorem witness_BurstReportsAtMostOncePerSample :
    ∃ (s : State) (len : BitVec 24), len.toNat ≤ s.rxData.length ∧ len.toNat % 2 = 0 ∧ len ≠ 0#24 :=
  ⟨waiting base [] [0x7F, 0x7F], 2#24, by decide⟩

/-- The least LONG run at FS = 2000: 5 samples. -/
theorem witness_LongRunEmptiesTheBuffer :
    ∃ (s : State) (lvl : Level) (k : Nat) (len : BitVec 24),
      s.cfg.legal = true ∧ s.rx.last ≠ lvl ∧ len.toNat = 2 * k ∧ 500 * k > s.cfg.fs ∧ len.toNat ≤ s.rxData.length ∧
      ∀ p ∈ samplesOf (s.rxData.take len.toNat), p.level = lvl :=
  ⟨waiting (rate 2000) [] (levelSamples .high 5), .high, 5, 10#24, by decide⟩

theorem witness_ShortBufferAttemptIsNoOp : ∃ ps : List Pulse, ps.length < 49 ∧ ps.length = 48 :=
  ⟨(pulsesP 0x12345A#24).take 48, by decide⟩

theorem witness_CompleteFrameDecodes :
    ∃ (c : Config) (ps : List Pulse) (sync : Pulse) (w : BitVec 24),
      ps.length = 49 ∧ ps[0]? = some sync ∧ sync.lvl = .low ∧ isLong c sync.n.toNat = true ∧
      ∀ j < 24, ∃ p, ps[2 * j + 1]? = some p ∧
        if wordBit w j then isOne c p.n.toNat = true else isZero c p.n.toNat = true := by
  refine ⟨base, pulsesP 0x12345A#24, ⟨.low, 201#32⟩, 0x12345A#24, by decide, by decide, rfl, by decide, fun j hj => ?_⟩
  have h : ∀ j < 24, (pulsesP 0x12345A#24)[2 * j + 1]? =
      some (if wordBit 0x12345A#24 j then ⟨.high, 32#32⟩ else ⟨.high, 96#32⟩) := by decide
  refine ⟨_, h j hj, ?_⟩
  split <;> decide

/-- The first bit and the last bit. -/
theorem witness_NearMissIsInconclusive :
    ∀ k ∈ [0, 23], ∃ (c : Config) (ps : List Pulse) (sync p : Pulse),
      ps.length = 49 ∧ ps[0]? = some sync ∧ sync.lvl = .low ∧ isLong c sync.n.toNat = true ∧ k < 24 ∧
      (∀ j < k, ∃ q, ps[2 * j + 1]? = some q ∧ (isOne c q.n.toNat = true ∨ isZero c q.n.toNat = true)) ∧
      ps[2 * k + 1]? = some p ∧ isOne c p.n.toNat = false ∧ isZero c p.n.toNat = false ∧ p.n.toNat < 2 ^ 28 := by
  intro k hk
  simp only [List.mem_cons, List.not_mem_nil, or_false] at hk
  obtain rfl | rfl := hk
  · exact ⟨base, (pulsesP 0#24).set 1 ⟨.high, 50#32⟩, ⟨.low, 201#32⟩, ⟨.high, 50#32⟩, by decide, by decide, rfl,
      by decide, by decide, fun j hj => absurd hj (by omega), by decide, by decide, by decide, by decide⟩
  · refine ⟨base, (pulsesP 0#24).set 47 ⟨.high, 115#32⟩, ⟨.low, 201#32⟩, ⟨.high, 115#32⟩, by decide, by decide, rfl,
      by decide, by decide, fun j hj => ⟨⟨.high, 96#32⟩, ?_, .inr (by decide)⟩, by decide, by decide, by decide, by decide⟩
    have h : ∀ j < 23, ((pulsesP 0#24).set 47 ⟨.high, 115#32⟩)[2 * j + 1]? = some ⟨.high, 96#32⟩ := by decide
    exact h j hj

theorem witness_SyncSearchSkipsNoise :
    ∃ (c : Config) (lead : Option Pulse) (noise : List (Pulse × Pulse)) (sync : Pulse) (ps : List Pulse),
      (∀ h, lead = some h → h.lvl = .high) ∧ (∀ x ∈ noise, x.1.lvl = .low ∧ isLong c x.1.n.toNat = false) ∧
      sync.lvl = .low ∧ isLong c sync.n.toNat = true ∧ 48 ≤ ps.length ∧ lead ≠ none ∧ noise ≠ [] :=
  ⟨base, some ⟨.high, 5#32⟩, [(⟨.low, 10#32⟩, ⟨.high, 10#32⟩)], ⟨.low, 201#32⟩, (pulsesP 0#24).tail, by
    rintro h ⟨⟩; rfl, by decide, rfl, by decide, by decide, by decide, by decide⟩

/-- A HIGH head and a LOW head. -/
theorem witness_BufferWithoutSyncIsFlushed :
    ∃ (c : Config) (p p' : Pulse) (ps : List Pulse), ps.length = 48 ∧ (∀ q ∈ ps, isLong c q.n.toNat = false) ∧
      p.lvl = .high ∧ p'.lvl = .low ∧ isLong c p'.n.toNat = false :=
  ⟨base, ⟨.high, 10#32⟩, ⟨.low, 200#32⟩, noise .low 48, by decide, by decide, rfl, rfl, by decide⟩

theorem witness_FullBufferAttemptShortens : ∃ ps : List Pulse, 49 ≤ ps.length := ⟨pulsesP 0#24, by decide⟩

theorem witness_ConstructionCheckNeverFails : ∃ (cv : BitVec 4) (s t : State), exec (.txReq cv) s = .next t :=
  ⟨0xA#4, .powerOn base, sending base [0xA#4] 0#32 [], next_of_after (by decide)⟩

theorem witness_ClosedFormRendersTheSchedule : 7039 < frameLen base := by decide

/-- An UNBOUNDED queue, and the last place of a bounded one. -/
theorem witness_RequestIsQueuedAtTheTail :
    (State.powerOn base).cfg.txqDepth = .unbounded ∧
    ∃ (s : State) (d : Nat), s.cfg.txqDepth = .frames d ∧ s.tx.txq.length ≠ d ∧ s.tx.txq.length + 1 = d :=
  ⟨rfl, sending (rateDepth 100000 2) [0xA#4] 0#32 [], 2, rfl, by decide, by decide⟩

theorem witness_RequestOnFullQueueIsDropped :
    (∃ (s : State) (d : Nat), s.cfg.txqDepth = .frames d ∧ s.tx.txq.length = d) ∧
    ∃ (s t : State) (cv : BitVec 4), s.cfg.txqDepth = .unbounded ∧ exec (.txReq cv) s = .next t :=
  ⟨⟨sending (rateDepth 100000 1) [0xA#4] 0#32 [], 1, rfl, by decide⟩,
    .powerOn base, sending base [0xA#4] 0#32 [], 0xA#4, rfl, next_of_after (by decide)⟩

/-- A transmit path in the middle of a frame, and an empty one. -/
theorem txInv_base : TxInv base ⟨[0xA#4, 3#4], 5000#32⟩ ∧ TxInv base ⟨[], 0#32⟩ :=
  ⟨⟨by decide, by decide, by intro d h; cases h⟩, ⟨by decide, by decide, by intro d h; cases h⟩⟩

theorem witness_PullReturnsTheNextPendingBytes :
    ∃ (s : State) (len : BitVec 24), s.cfg.legal = true ∧ TxInv s.cfg s.tx ∧ s.tx.txq ≠ [] ∧
      s.nextTxBuf.length = len.toNat :=
  ⟨sending base [0xA#4, 3#4] 5000#32 [[1, 2, 3]], 3#24, base_legal, txInv_base.1, by decide, by decide⟩

/-- LEN = 0 with a frame half sent and a buffer waiting, and an empty queue with a buffer of LEN bytes waiting. -/
theorem witness_EmptyPullLeavesTheBuffer :
    (∃ (s : State) (len : BitVec 24), len = 0#24 ∧ s.tx.txq ≠ [] ∧ s.txBufs ≠ []) ∧
    ∃ (s : State) (len : BitVec 24), s.tx.txq = [] ∧ len ≠ 0#24 ∧ s.nextTxBuf.length = len.toNat :=
  ⟨⟨sending base [0xA#4] 66#32 [[]], 0#24, rfl, by decide, by decide⟩,
    sending base [] 0#32 [[1, 2, 3, 4]], 4#24, rfl, by decide, by decide⟩

/-- The whole of the queued frames, and the queue at a frame's start. -/
theorem witness_PullBoundariesCarryNoMeaning :
    ∃ (s : State) (lens : List (BitVec 24)), s.cfg.legal = true ∧ TxInv s.cfg s.tx ∧ s.tx.off = 0#32 ∧
      s.tx.txq.length * frameLen s.cfg ≤ (lens.map BitVec.toNat).sum ∧ s.tx.txq ≠ [] :=
  ⟨sending base [0xA#4, 3#4] 0#32 [], [5000#24, 5000#24, 4080#24], base_legal,
    ⟨by decide, by decide, by intro d h; cases h⟩, rfl, by decide, by decide⟩

theorem witness_SentBytesAreTheRequestedFrames :
    ∃ (s : State) (is : List Instr), s.cfg.legal = true ∧ s.cfg.txqDepth = .unbounded ∧ TxInv s.cfg s.tx ∧
      (∀ i ∈ is, resetsTx i = false) ∧ is ≠ [] :=
  ⟨sending base [0xA#4, 3#4] 5000#32 [], [.txReq 5#4, .txPull 9000#24, .rstRx, .txReq 5#4], base_legal, rfl,
    txInv_base.1, by decide, by decide⟩

/-- A receive path in the middle of a frame meets rule R26. -/
theorem rxInv_base : RxInv base ⟨.high, 7#32, [⟨.low, 201#32⟩, ⟨.high, 32#32⟩, ⟨.low, 9#32⟩]⟩ :=
  ⟨by decide, by rintro p ⟨⟩; decide, by decide, by decide, by decide, by decide, by decide, by decide, by decide,
    by decide⟩

theorem witness_StepKeepsBothPathsInvariant :
    ∃ s t : State, Inv s ∧ step s = .next t ∧ s.rx.pbuf ≠ [] ∧ s.tx.txq ≠ [] ∧ t ≠ s :=
  ⟨busy [0x10000001#32], { busy [] with rx := ⟨.low, 0#32, []⟩ }, ⟨rxInv_base, txInv_base.1⟩, rfl, by decide, by decide,
    by decide⟩

theorem witness_PowerOnMeetsBothPathsInvariant : ∃ c : Config, c.legal = true := ⟨base, base_legal⟩

theorem witness_ReachableStatesKeepTheBounds : ∃ s : State, Reachable s ∧ s.rx.pbuf ≠ [] ∧ s.cmds = [] :=
  ⟨{ State.powerOn base with rx := ⟨.high, 1#32, [⟨.low, 0#32⟩]⟩ },
    .step ((State.powerOn base).issue (.issue (.rxBurst 2#24) [0x7F, 0x7F] [])) _
      (.issue _ _ (.powerOn base base_legal)) rfl, by decide, rfl⟩

/-- A receive and a transmit operation, each at two states that agree on its own path only. -/
theorem witness_PathsShareNoState :
    (∃ (i : Instr) (s s' t t' : State), isRxOp i = true ∧ s.cfg = s'.cfg ∧ s.rx = s'.rx ∧ s.rxData = s'.rxData ∧
      exec i s = .next t ∧ exec i s' = .next t' ∧ s.tx ≠ s'.tx) ∧
    ∃ (i : Instr) (s s' t t' : State), isTxOp i = true ∧ s.cfg = s'.cfg ∧ s.tx = s'.tx ∧ s.txBufs = s'.txBufs ∧
      exec i s = .next t ∧ exec i s' = .next t' ∧ s.rx ≠ s'.rx :=
  ⟨⟨.rstRx, busy [], { busy [] with tx := ⟨[], 0#32⟩ }, (busy []).resetRx,
      ({ busy [] with tx := ⟨[], 0#32⟩ } : State).resetRx, rfl, rfl, rfl, rfl, rfl, rfl, by decide⟩,
    .rstTx, busy [], { busy [] with rx := ⟨.low, 0#32, []⟩ }, (busy []).resetTx,
      ({ busy [] with rx := ⟨.low, 0#32, []⟩ } : State).resetTx, rfl, rfl, rfl, rfl, rfl, rfl, by decide⟩

/-- The longest silence rule R176 allows, after a last bit 0 and after a last bit 1, at FS = 100000; and the least FS. -/
theorem witness_TransmittedFrameIsDecoded :
    (base.legal = true ∧ 23438 ≤ base.fs ∧ (⟨127, 127⟩ : Sample).level = .high) ∧
    lastLowRun base 0xA#4 + 168 = nClamp base - 1 ∧ lastLowRun base 0xB#4 + 104 = nClamp base - 1 ∧
    (rate 23438).legal = true ∧ lastLowRun (rate 23438) 0xB#4 + 0 ≤ nClamp (rate 23438) - 1 := by decide

/-- The least silence that makes the last LOW longer than 2 ms. -/
theorem witness_LoneFrameIsNeverDecoded :
    base.legal = true ∧ 23438 ≤ base.fs ∧ nClamp base ≤ lastLowRun base 0xA#4 + 169 := by decide

theorem witness_BackToBackCopiesDecodeAllButOne : base.legal = true ∧ 23438 ≤ base.fs := by decide

theorem witness_InputLineIsOneHexDigit :
    lineRequest ['f', '\n'] = some 0xF#4 ∧ lineRequest ['f', 'f'] = none ∧ hexDigit 'F' = some 0xF#4 := by decide

theorem witness_CallbacksIssueTheWholeBuffer : ([0x7F, 0x7F] : List Byte).length ≤ 16777215 := by decide

/-- The longest silence one word can name, and one sample more. -/
theorem witness_PseudoInstructionsExpand : 2 * 8388607 ≤ 16777215 ∧ 16777215 < 2 * 8388608 := by decide

end Sys2Proof.Tests
end

section
/-! SUPPORT. The configuration ranges, the derived constants and the duration predicates (`00_scope.md` rules R6, R8,
R9), and the obligations about them. -/

namespace Sys2Proof.Machine

/-! ## Rule R6 -/

/-- Each way out of rule R6's ranges makes a configuration illegal. -/
theorem Config.legal_eq_false_iff (c : Config) :
    c.legal = false ↔ c.fs < 1563 ∨ 2147483647 < c.fs ∨ c.txqDepth = .frames 0 := by
  rw [← Bool.not_eq_true, Config.legal_iff]
  simp only [not_and_or, not_le, not_not]

/-- Settles O4: a configuration outside the ranges is not legal, and without a legal one `step` refuses. -/
theorem illegalConfigurationHasNoRun : Obligations.IllegalConfigurationHasNoRun :=
  fun s h => step_refused s ((Config.legal_eq_false_iff s.cfg).mpr h)

/-- A legal sample rate can be divided by. -/
theorem Config.fs_pos {c : Config} (h : c.legal = true) : 0 < c.fs := by
  obtain ⟨low, -, -⟩ := (Config.legal_iff c).mp h
  omega

/-! ## Rule R9 -/

theorem isLong_iff (c : Config) (n : Nat) : isLong c n = true ↔ 500 * n > c.fs := by simp [isLong]

theorem isOne_iff (c : Config) (n : Nat) :
    isOne c n = true ↔ 4000 * n > c.fs ∧ 100000 * n < 43 * c.fs := by simp [isOne]

theorem isZero_iff (c : Config) (n : Nat) :
    isZero c n = true ↔ 10000 * n > 9 * c.fs ∧ 20000 * n < 23 * c.fs := by simp [isZero]

section Duration
variable {fs : Nat} (fs_pos : 0 < fs) (n a : Nat) {b : Nat} (b_pos : 0 < b)
include fs_pos b_pos

/-- `n` samples last longer than `a/b` ms: the comparison on the rationals, with the denominators cleared. -/
theorem lt_duration_iff : (a : ℚ) / b < (n : ℚ) * 1000 / fs ↔ a * fs < n * 1000 * b := by
  rw [div_lt_div_iff₀ (Nat.cast_pos.mpr b_pos) (Nat.cast_pos.mpr fs_pos)]
  exact_mod_cast Iff.rfl

/-- `n` samples last less than `a/b` ms: the comparison on the rationals, with the denominators cleared. -/
theorem duration_lt_iff : (n : ℚ) * 1000 / fs < (a : ℚ) / b ↔ n * 1000 * b < a * fs := by
  rw [div_lt_div_iff₀ (Nat.cast_pos.mpr fs_pos) (Nat.cast_pos.mpr b_pos)]
  exact_mod_cast Iff.rfl

end Duration

theorem isLong_iff_duration {c : Config} (h : 0 < c.fs) (n : Nat) :
    isLong c n = true ↔ (n : ℚ) * 1000 / c.fs > 2 := by
  have lower := lt_duration_iff h n 2 (b := 1) (by decide)
  rw [Nat.cast_one, div_one, Nat.cast_ofNat] at lower
  refine Iff.trans ?_ lower.symm
  rw [isLong_iff]
  omega

theorem isOne_iff_duration {c : Config} (h : 0 < c.fs) (n : Nat) :
    isOne c n = true ↔ 1 / 4 < (n : ℚ) * 1000 / c.fs ∧ (n : ℚ) * 1000 / c.fs < 43 / 100 := by
  have lower := lt_duration_iff h n 1 (b := 4) (by decide)
  have upper := duration_lt_iff h n 43 (b := 100) (by decide)
  push_cast at lower upper
  rw [isOne_iff, lower, upper]
  omega

theorem isZero_iff_duration {c : Config} (h : 0 < c.fs) (n : Nat) :
    isZero c n = true ↔ 9 / 10 < (n : ℚ) * 1000 / c.fs ∧ (n : ℚ) * 1000 / c.fs < 115 / 100 := by
  have lower := lt_duration_iff h n 9 (b := 10) (by decide)
  have upper := duration_lt_iff h n 115 (b := 100) (by decide)
  push_cast at lower upper
  rw [isZero_iff, lower, upper]
  omega

/-- The bit bands are disjoint: 0.43 ms is below 0.9 ms. -/
theorem not_isOne_and_isZero (c : Config) (n : Nat) : ¬(isOne c n = true ∧ isZero c n = true) := by
  rw [isOne_iff, isZero_iff]
  omega

/-- Settles O16: each predicate is the rational comparison with its denominators cleared. -/
theorem durationTestsAreExact : Obligations.DurationTestsAreExact := fun c n legal =>
  have fs_pos := Config.fs_pos legal
  ⟨isLong_iff c n, isOne_iff c n, isZero_iff c n, isLong_iff_duration fs_pos n, isOne_iff_duration fs_pos n,
    isZero_iff_duration fs_pos n, not_isOne_and_isZero c n⟩

/-! ## Rule R8 -/

/-- `100000*IVAL` is less than 50000 away from `32*FS`. It is not on the tie: 50000 is no multiple of 32, and 100000
and `32*FS` are. -/
theorem ival_between (c : Config) :
    100000 * ival c < 32 * c.fs + 50000 ∧ 32 * c.fs < 100000 * ival c + 50000 := by
  unfold ival
  omega

/-- `IVAL` is `32*FS/100000` rounded to the nearest integer, never on a tie. -/
theorem ival_sub_lt_half (c : Config) : |(ival c : ℚ) - 32 * c.fs / 100000| < 1 / 2 := by
  obtain ⟨below, above⟩ := ival_between c
  have below' : (100000 : ℚ) * ival c < 32 * c.fs + 50000 := by exact_mod_cast below
  have above' : (32 : ℚ) * c.fs < 100000 * ival c + 50000 := by exact_mod_cast above
  rw [abs_lt]
  constructor <;> linarith

/-- The least legal sample rate, 1563, is the least with a sample in the unit interval. -/
theorem ival_pos {c : Config} (h : c.legal = true) : 1 ≤ ival c := by
  obtain ⟨low, -, -⟩ := (Config.legal_iff c).mp h
  unfold ival
  omega

/-- Settles O15: `IVAL` is the rounding (`ival_sub_lt_half`), and LONG is "at least `N_CLAMP`" (`isLong_eq`). -/
theorem derivedConstantsAreTheRoundings : Obligations.DerivedConstantsAreTheRoundings := fun c legal =>
  have isLong_iff_nClamp (n : Nat) : isLong c n = true ↔ nClamp c ≤ n := by rw [isLong_eq, decide_eq_true_iff]
  ⟨rfl, ival_sub_lt_half c, ival_pos legal, rfl, (isLong_iff_nClamp _).mpr le_rfl,
    fun n long => (isLong_iff_nClamp n).mp long, rfl, rfl, rfl, frameLen_eq c⟩

end Sys2Proof.Machine
end

section
/-! SUPPORT. What an operation and a step can do to the state, said once, and the obligations about the state
(`10_state.md`): the reset values, the reports, and the invariants of both paths. -/

namespace Sys2Proof.Machine

/-! ## What an operation and a step can do -/

/-- Every next state an operation can leave from `s` (rules R211-R217). -/
inductive ExecEffect (s : State) : State → Prop
  | unchanged : ExecEffect s s
  | resetRx : ExecEffect s s.resetRx
  | resetTx : ExecEffect s s.resetTx
  | resetBoth : ExecEffect s s.resetRx.resetTx
  | burstRefused (len : BitVec 24) (odd : len.toNat % 2 = 1) :
      ExecEffect s ((s.rxDrop len.toNat).emit (.malformed len))
  | burstRun (len : BitVec 24) (even : len.toNat % 2 = 0) :
      ExecEffect s ((s.rxDrop len.toNat).runReceive (s.rxData.take len.toNat))
  | requestDropped (cv : BitVec 4) (full : s.txqFull = true) : ExecEffect s (s.emit (.txqFull cv))
  | requestMismatched (computed expected : Word) : ExecEffect s (s.emit (.mismatch computed expected))
  | requestQueued (cv : BitVec 4) (room : s.txqFull = false) : ExecEffect s (s.enqueue cv)
  | pulled (n : Nat) :
      ExecEffect s (({ s with tx := (feedPull s.cfg n s.tx).2 } : State).txReturn (feedPull s.cfg n s.tx).1)

theorem exec_effect {i : Instr} {s t : State} (h : exec i s = .next t) : ExecEffect s t := by
  cases i with
  | nop => cases h; exact .unchanged
  | rstRx => cases h; exact .resetRx
  | rstTx => cases h; exact .resetTx
  | rstAll => cases h; exact .resetBoth
  | rxBurst len =>
    change execRxBurst len s = .next t at h
    obtain ⟨-, e⟩ | ⟨-, odd, e⟩ | ⟨-, even, e⟩ := execRxBurst_cases len s <;> rw [e] at h <;> cases h
    · exact .unchanged
    · exact .burstRefused len odd
    · exact .burstRun len even
  | txReq cv =>
    change execTxReq cv s = .next t at h
    obtain ⟨full, e⟩ | ⟨-, -, e⟩ | ⟨room, -, e⟩ := execTxReq_cases cv s <;> rw [e] at h <;> cases h
    · exact .requestDropped cv full
    · exact .requestMismatched _ _
    · exact .requestQueued cv room
  | txPull len => cases h; exact .pulled _

/-- A step that answers a next state has a legal configuration, and waits, runs an operation or reports a word
(rules R6, R210, R218, R271). -/
theorem step_next_cases {s t : State} (h : step s = .next t) :
    s.cfg.legal = true ∧
      (t = s ∨ (∃ ws, ExecEffect { s with cmds := ws } t) ∨
        ∃ ws w, t = ({ s with cmds := ws } : State).refuseWord w) := by
  cases legal : s.cfg.legal with
  | false => rw [step_refused s legal] at h; cases h
  | true =>
    refine ⟨rfl, ?_⟩
    obtain ⟨-, e⟩ | ⟨_, _, _, -, -, -, e⟩ | ⟨_, ws, _, -, -, -, e⟩ | ⟨w, ws, _, -, -, e⟩ := step_cases s legal
    all_goals rw [e] at h
    · cases h; exact .inl rfl
    · cases h; exact .inl rfl
    · exact .inr (.inl ⟨ws, exec_effect h⟩)
    · cases h; exact .inr (.inr ⟨ws, w, rfl⟩)

/-! ## Reports and configuration -/

/-- `t` keeps the configuration of `s`, and its event stream and TX data begin with those of `s`. -/
structure ExtendsReports (s t : State) : Prop where
  cfg : t.cfg = s.cfg
  evs : s.evs <+: t.evs
  txData : s.txData <+: t.txData

theorem ExecEffect.extendsReports {s t : State} (h : ExecEffect s t) : ExtendsReports s t := by
  cases h with
  | unchanged | resetRx | resetTx | resetBoth | requestQueued => exact ⟨rfl, List.prefix_rfl, List.prefix_rfl⟩
  | burstRefused | burstRun | requestDropped | requestMismatched => exact ⟨rfl, List.prefix_append _ _, List.prefix_rfl⟩
  | pulled => exact ⟨rfl, List.prefix_rfl, List.prefix_append _ _⟩

theorem step_extendsReports {s t : State} (h : step s = .next t) : ExtendsReports s t := by
  obtain ⟨-, rfl | ⟨ws, effect⟩ | ⟨ws, w, rfl⟩⟩ := step_next_cases h
  · exact ⟨rfl, List.prefix_rfl, List.prefix_rfl⟩
  · obtain ⟨cfg, evs, txData⟩ := effect.extendsReports
    exact ⟨cfg, evs, txData⟩
  · exact ⟨rfl, List.prefix_append _ _, List.prefix_rfl⟩

/-- Settles O6: no effect of an operation writes the configuration or a report already given
(`ExecEffect.extendsReports`), and neither does the report of an illegal word. -/
theorem stepOnlyAppendsReports : Obligations.StepOnlyAppendsReports := fun s t h => by
  obtain ⟨cfg, ⟨es, evs⟩, ⟨rs, txData⟩⟩ := step_extendsReports h
  exact ⟨cfg, ⟨es, evs.symm⟩, ⟨rs, txData.symm⟩⟩

/-! ## Reset values -/

/-- Settles O20: power-on and the resets write the two paths' reset values (rule R33) and nothing else of the table. -/
theorem resetValuesAreThoseOfTheTable : Obligations.ResetValuesAreThoseOfTheTable :=
  ⟨fun _ => ⟨rfl, rfl, rfl⟩, ⟨rfl, rfl, rfl⟩, ⟨by decide, by decide, by decide⟩, fun s =>
    ⟨⟨s.resetRx, rfl, s.resetRx_rx, s.resetRx_tx, s.resetRx_evs⟩,
      ⟨s.resetTx, rfl, s.resetTx_rx, s.resetTx_tx, s.resetTx_evs⟩,
      ⟨s.resetRx.resetTx, rfl, s.resetRx_rx, s.resetRx.resetTx_tx, s.resetRx_evs⟩⟩⟩

/-! ## The pulse buffer -/

theorem alternates_iff_isChain (ps : List Pulse) :
    alternates ps = true ↔ ps.IsChain fun p q => q.lvl = p.lvl.flip := by
  induction ps with
  | nil => simp [alternates]
  | cons p rest ih =>
    cases rest with
    | nil => simp [alternates]
    | cons q rest => simp [alternates, ih]

/-- What rule R26 says of a buffer of finished runs, its length left aside, when the last of them has level `lvl`. -/
structure BufferInv (c : Config) (lvl : Level) (ps : List Pulse) : Prop where
  levelsAlternate : ps.IsChain fun p q => q.lvl = p.lvl.flip
  lastLevel : ∀ p ∈ ps.getLast?, p.lvl = lvl
  tailNotLong : ∀ p ∈ ps.tail, isLong c p.n.toNat = false
  tailNotEmpty : ∀ p ∈ ps.tail, p.n ≠ 0#32
  pulseBound : ∀ p ∈ ps, p.n.toNat ≤ nClamp c
  emptyPulseLow : ∀ p ∈ ps, p.n = 0#32 → p.lvl = .low

theorem RxInv.bufferInv {c : Config} {r : RxPath} (h : RxInv c r) : BufferInv c r.last.flip r.pbuf where
  levelsAlternate := (alternates_iff_isChain _).mp h.levelsAlternate
  lastLevel := h.lastLevel
  tailNotLong := h.tailNotLong
  tailNotEmpty := h.tailNotEmpty
  pulseBound := h.pulseBound
  emptyPulseLow := h.emptyPulseLow

theorem mem_tail_of_suffix {ps qs : List Pulse} (h : qs <:+ ps) {p : Pulse} (hp : p ∈ qs.tail) : p ∈ ps.tail := by
  obtain ⟨front, rfl⟩ := h
  cases front with
  | nil => exact hp
  | cons f front => exact List.mem_append_right front (List.mem_of_mem_tail hp)

/-- Dropping pulses from the head keeps a buffer's invariant. -/
theorem BufferInv.of_suffix {c : Config} {lvl : Level} {ps qs : List Pulse} (h : BufferInv c lvl ps)
    (suffix : qs <:+ ps) : BufferInv c lvl qs where
  levelsAlternate := h.levelsAlternate.suffix suffix
  lastLevel p hp := by
    obtain ⟨front, rfl⟩ := suffix
    exact h.lastLevel p (List.mem_getLast?_append_of_mem_getLast? hp)
  tailNotLong p hp := h.tailNotLong p (mem_tail_of_suffix suffix hp)
  tailNotEmpty p hp := h.tailNotEmpty p (mem_tail_of_suffix suffix hp)
  pulseBound p hp := h.pulseBound p (suffix.subset hp)
  emptyPulseLow p hp := h.emptyPulseLow p (suffix.subset hp)

/-- A pulse appended to a buffer stands in the tail only behind another pulse. -/
theorem mem_tail_append_singleton {ps : List Pulse} {p q : Pulse} (h : q ∈ (ps ++ [p]).tail) :
    q ∈ ps.tail ∨ (q = p ∧ ps ≠ []) := by
  cases ps with
  | nil => simp at h
  | cons a ps => simpa using h

/-- The finished run, appended as a pulse, continues the buffer (rules R26, R121). It is LONG or of no sample only
where the buffer before it is empty. -/
theorem RxInv.appendRun {c : Config} {r : RxPath} (h : RxInv c r) :
    BufferInv c r.last (r.pbuf ++ [⟨r.last, r.run⟩]) where
  levelsAlternate := by
    refine List.isChain_append.mpr ⟨h.bufferInv.levelsAlternate, List.isChain_singleton _, fun p hp q hq => ?_⟩
    cases hq
    rw [h.lastLevel p hp, Level.flip_flip]
  lastLevel p hp := by
    rw [List.getLast?_concat] at hp
    cases hp; rfl
  tailNotLong p hp := by
    obtain hp | ⟨rfl, nonempty⟩ := mem_tail_append_singleton hp
    · exact h.tailNotLong p hp
    · exact Bool.eq_false_iff.mpr fun long => nonempty (h.longRunEmpties long)
  tailNotEmpty p hp := by
    obtain hp | ⟨rfl, nonempty⟩ := mem_tail_append_singleton hp
    · exact h.tailNotEmpty p hp
    · exact fun zero => nonempty (h.emptyRunReset zero).2
  pulseBound := List.forall_mem_append.mpr ⟨h.pulseBound, List.forall_mem_singleton.mpr h.runBound⟩
  emptyPulseLow :=
    List.forall_mem_append.mpr ⟨h.emptyPulseLow, List.forall_mem_singleton.mpr fun zero => (h.emptyRunReset zero).1⟩

theorem RxInv.appendRun_length_le {c : Config} {r : RxPath} (h : RxInv c r) :
    (r.pbuf ++ [(⟨r.last, r.run⟩ : Pulse)]).length ≤ 49 := by
  rw [List.length_append]
  exact Nat.succ_le_succ h.lengthBound

/-! ## The decode attempt's length -/

/-- Each bit consumes a pair, so a bit loop on enough pulses shortens the buffer. -/
theorem readBits_length_lt (c : Config) (k : Nat) (w : BitVec 24) (ps : List Pulse) (h : 2 ≤ ps.length) :
    (readBits c (k + 1) w ps).1.length < ps.length := by
  match ps, h with
  | l :: p :: rest, _ =>
    rw [readBits_succ]
    split
    · next b _ =>
      have := (readBits_suffix c k (w.shiftConcat b) rest).length_le
      simp only [List.length_cons]; omega
    · simp only [List.length_cons]; omega

/-- An attempt on a full buffer leaves fewer pulses (rule R150). -/
theorem decodeAttempt_length_lt (c : Config) (ps : List Pulse) (h : 49 ≤ ps.length) :
    (decodeAttempt c ps).1.length < ps.length := by
  have synced := ((findSync_suffix c (dropLeadingHigh ps)).trans (dropLeadingHigh_suffix ps)).length_le
  obtain ⟨short, -⟩ | ⟨-, short, e⟩ | ⟨-, long, e⟩ := decodeAttempt_cases c ps
  · omega
  · rw [e]; exact short.trans_le h
  · rw [e]; exact (readBits_length_lt c 23 0#24 _ (by omega)).trans_le synced

/-- An attempt brings the buffer back to rule R26's 48 pulses. -/
theorem decodeAttempt_length_le (c : Config) (ps : List Pulse) (h : ps.length ≤ 49) :
    (decodeAttempt c ps).1.length ≤ 48 := by
  obtain full | short := h.eq_or_lt
  · have := decodeAttempt_length_lt c ps full.ge
    omega
  · exact (decodeAttempt_suffix c ps).length_le.trans (Nat.le_of_lt_succ short)

/-! ## The receive path's invariant -/

/-- An empty buffer meets rule R26 with any run that meets rule R24. -/
theorem rxInv_emptyBuffer {c : Config} {lvl : Level} {run : Word} (bound : run.toNat ≤ nClamp c)
    (reset : run = 0#32 → lvl = .low) : RxInv c ⟨lvl, run, []⟩ where
  levelsAlternate := rfl
  lastLevel _ last := by cases last
  lengthBound := Nat.zero_le _
  tailNotLong := List.forall_mem_nil _
  tailNotEmpty := List.forall_mem_nil _
  pulseBound := List.forall_mem_nil _
  runBound := bound
  emptyPulseLow := List.forall_mem_nil _
  longRunEmpties _ := rfl
  emptyRunReset zero := ⟨reset zero, rfl⟩

theorem rxInv_reset (c : Config) : RxInv c .reset :=
  rxInv_emptyBuffer (Nat.zero_le _) fun _ => rfl

/-- A run longer than 2 ms leaves an empty buffer and the clamped count (rules R122, R123). -/
theorem rxInv_clamped {c : Config} (legal : c.legal = true) (lvl : Level) :
    RxInv c ⟨lvl, BitVec.ofNat 32 (nClamp c), []⟩ := by
  have clamp := nClamp_lt c legal
  have toNat : (BitVec.ofNat 32 (nClamp c)).toNat = nClamp c := by
    rw [BitVec.toNat_ofNat]; omega
  refine rxInv_emptyBuffer toNat.le fun zero => ?_
  rw [zero, BitVec.toNat_ofNat] at toNat
  omega

/-- One more sample of a run that does not become LONG (rule R122). -/
theorem RxInv.lengthenRun {c : Config} {r : RxPath} (h : RxInv c r) (legal : c.legal = true)
    (short : isLong c (r.run + 1#32).toNat = false) : RxInv c { r with run := r.run + 1#32 } := by
  have clamp := nClamp_lt c legal
  have bound := h.runBound
  have toNat : (r.run + 1#32).toNat = r.run.toNat + 1 := by
    rw [BitVec.toNat_add, BitVec.toNat_ofNat]; omega
  refine { h with runBound := ?_, longRunEmpties := fun long => ?_, emptyRunReset := fun zero => ?_ }
  · rw [isLong_eq, decide_eq_false_iff_not] at short
    exact (not_le.mp short).le
  · cases short.symm.trans long
  · cases (congrArg BitVec.toNat zero).symm.trans toNat

/-- A run of one sample behind a buffer that ends at the other level (rule R121). -/
theorem BufferInv.rxInv_newRun {c : Config} {prev lvl : Level} {ps : List Pulse} (h : BufferInv c prev ps)
    (legal : c.legal = true) (change : lvl ≠ prev) (length : ps.length ≤ 48) : RxInv c ⟨lvl, 1#32, ps⟩ where
  levelsAlternate := (alternates_iff_isChain _).mpr h.levelsAlternate
  lastLevel p hp := (h.lastLevel p hp).trans (Level.eq_flip_of_ne change.symm)
  lengthBound := length
  tailNotLong := h.tailNotLong
  tailNotEmpty := h.tailNotEmpty
  pulseBound := h.pulseBound
  runBound := show 1 ≤ nClamp c by have clamp := nClamp_lt c legal; omega
  emptyPulseLow := h.emptyPulseLow
  longRunEmpties long := by
    rw [isLong_eq, decide_eq_true_iff] at long
    have clamp := nClamp_lt c legal
    change nClamp c ≤ 1 at long
    omega
  emptyRunReset zero := by cases zero

/-- Every sample keeps the receive path's invariant (rule R120). -/
theorem RxInv.sampleStep {c : Config} {r : RxPath} (h : RxInv c r) (legal : c.legal = true) (p : Sample) :
    RxInv c (sampleStep c p r).1 := by
  obtain ⟨-, -, e⟩ | ⟨-, short, e⟩ | ⟨change, e⟩ := sampleStep_cases c p r <;> rw [e]
  · exact rxInv_clamped legal r.last
  · exact h.lengthenRun legal short
  · have attempt := h.appendRun.of_suffix (decodeAttempt_suffix c _)
    exact attempt.rxInv_newRun legal change (decodeAttempt_length_le c _ h.appendRun_length_le)

theorem RxInv.receive {c : Config} (legal : c.legal = true) (ps : List Sample) :
    ∀ {r : RxPath}, RxInv c r → RxInv c (receive c ps r).1 := by
  induction ps with
  | nil => exact fun h => h
  | cons p ps ih => exact fun h => ih (h.sampleStep legal p)

/-! ## The transmit path's invariant -/

theorem frameLen_pos {c : Config} (legal : c.legal = true) : 0 < frameLen c := by
  have := ival_pos legal
  rw [frameLen_eq]; omega

/-- The highest legal `FS` gives the longest frame (rule R29). -/
theorem frameLen_le {c : Config} (legal : c.legal = true) : frameLen c ≤ 220 * 687195 := by
  obtain ⟨-, high, -⟩ := (Config.legal_iff c).mp legal
  rw [frameLen_eq, ival]; omega

/-- Rule R29 on the feeder loop's queue and cursor. -/
structure CursorInside (c : Config) (q : List (BitVec 4)) (off : Nat) : Prop where
  zeroWhenEmpty : q = [] → off = 0
  insideFrame : q ≠ [] → off < frameLen c

theorem CursorInside.zero {c : Config} (legal : c.legal = true) (q : List (BitVec 4)) : CursorInside c q 0 :=
  ⟨fun _ => rfl, fun _ => frameLen_pos legal⟩

theorem CursorInside.lt {c : Config} {q : List (BitVec 4)} {off : Nat} (h : CursorInside c q off)
    (legal : c.legal = true) : off < frameLen c := by
  by_cases empty : q = []
  · rw [h.zeroWhenEmpty empty]; exact frameLen_pos legal
  · exact h.insideFrame empty

theorem CursorInside.txInv {c : Config} {q : List (BitVec 4)} {off : Nat} (h : CursorInside c q off)
    (legal : c.legal = true) (depth : ∀ d, c.txqDepth = .frames d → q.length ≤ d) :
    TxInv c ⟨q, BitVec.ofNat 32 off⟩ := by
  have toNat : (BitVec.ofNat 32 off).toNat = off := by
    have lt := h.lt legal
    have le := frameLen_le legal
    rw [BitVec.toNat_ofNat]; omega
  exact ⟨fun empty => by rw [h.zeroWhenEmpty empty], fun nonempty => toNat.trans_lt (h.insideFrame nonempty), depth⟩

theorem TxInv.cursorInside {c : Config} {x : TxPath} (h : TxInv c x) : CursorInside c x.txq x.off.toNat :=
  ⟨fun empty => by rw [h.offZeroWhenEmpty empty]; rfl, h.offInsideFrame⟩

/-- The feeder loop only drops frames from the queue's head, and leaves the cursor inside the frame that is then the
head (rules R190, R191). -/
theorem feedQueue_keeps {c : Config} (legal : c.legal = true) (q : List (BitVec 4)) (off n : Nat)
    (h : CursorInside c q off) :
    CursorInside c (feedQueue c q off n).2.1 (feedQueue c q off n).2.2 ∧ (feedQueue c q off n).2.1 <:+ q := by
  induction q generalizing off n with
  | nil => exact ⟨h, List.suffix_rfl⟩
  | cons cv rest ih =>
    by_cases within : off + n < frameLen c
    · rw [feedQueue_within c cv rest off n within]
      exact ⟨⟨fun empty => absurd empty (List.cons_ne_nil cv rest), fun _ => within⟩, List.suffix_rfl⟩
    · rw [feedQueue_beyond c cv rest off n (h.lt legal) (not_lt.mp within)]
      obtain ⟨inside, suffix⟩ := ih 0 _ (.zero legal rest)
      exact ⟨inside, suffix.trans (List.suffix_cons cv rest)⟩

theorem txInv_reset (c : Config) : TxInv c .reset :=
  ⟨fun _ => rfl, fun nonempty => absurd rfl nonempty, fun _ _ => Nat.zero_le _⟩

theorem TxInv.feedPull {c : Config} {x : TxPath} (h : TxInv c x) (legal : c.legal = true) (n : Nat) :
    TxInv c (feedPull c n x).2 := by
  obtain ⟨inside, suffix⟩ := feedQueue_keeps legal x.txq x.off.toNat n h.cursorInside
  exact inside.txInv legal fun d depth => suffix.length_le.trans (h.depthBound d depth)

theorem txqFull_eq_false_iff (s : State) :
    s.txqFull = false ↔ ∀ d, s.cfg.txqDepth = .frames d → s.tx.txq.length ≠ d := by
  unfold State.txqFull
  cases s.cfg.txqDepth <;> simp

/-- A frame queued where there is room (rules R193, R216). -/
theorem TxInv.enqueue {s : State} (h : TxInv s.cfg s.tx) (legal : s.cfg.legal = true) (room : s.txqFull = false)
    (cv : BitVec 4) : TxInv s.cfg (s.enqueue cv).tx where
  offZeroWhenEmpty empty := by simp at empty
  offInsideFrame _ := h.cursorInside.lt legal
  depthBound d depth := by
    have le := h.depthBound d depth
    have ne := (txqFull_eq_false_iff s).mp room d depth
    simp only [State.enqueue_tx, List.length_append, List.length_singleton]
    omega

/-! ## Both invariants -/

theorem inv_powerOn (c : Config) : Inv (.powerOn c) :=
  ⟨rxInv_reset c, txInv_reset c⟩

/-- Settles O47: both paths' reset values meet their invariants. -/
theorem powerOnMeetsBothPathsInvariant : Obligations.PowerOnMeetsBothPathsInvariant :=
  ⟨fun c _ => inv_powerOn c, inv_powerOn sessionConfig⟩

theorem ExecEffect.inv {s t : State} (effect : ExecEffect s t) (legal : s.cfg.legal = true) (h : Inv s) : Inv t := by
  obtain ⟨rx, tx⟩ := h
  cases effect with
  | unchanged | burstRefused | requestDropped | requestMismatched => exact ⟨rx, tx⟩
  | resetRx => exact ⟨rxInv_reset _, tx⟩
  | resetTx => exact ⟨rx, txInv_reset _⟩
  | resetBoth => exact ⟨rxInv_reset _, txInv_reset _⟩
  | burstRun => exact ⟨rx.receive legal _, tx⟩
  | requestQueued cv room => exact ⟨rx, tx.enqueue legal room cv⟩
  | pulled n => exact ⟨rx, tx.feedPull legal n⟩

/-- Settles O46: a step with a next state has a legal configuration, and then each operation keeps each path's
invariant: `RxInv.receive` for a burst, `TxInv.enqueue` for a request, `TxInv.feedPull` for a pull. -/
theorem stepKeepsBothPathsInvariant : Obligations.StepKeepsBothPathsInvariant := fun s t h hstep => by
  obtain ⟨legal, rfl | ⟨ws, effect⟩ | ⟨ws, w, rfl⟩⟩ := step_next_cases hstep
  · exact h
  · exact effect.inv legal ⟨h.rx, h.tx⟩
  · exact ⟨h.rx, h.tx⟩

/-! ## The states a session reaches -/

theorem State.issue_frame (s : State) (cmd : Command) :
    (s.issue cmd).cfg = s.cfg ∧ (s.issue cmd).rx = s.rx ∧ (s.issue cmd).tx = s.tx := by
  cases cmd <;> exact ⟨rfl, rfl, rfl⟩

theorem Reachable.legal_and_inv {s : State} (h : Reachable s) : s.cfg.legal = true ∧ Inv s := by
  induction h with
  | powerOn c legal => exact ⟨legal, inv_powerOn c⟩
  | step s t _ hstep ih =>
    obtain ⟨legal, inv⟩ := ih
    exact ⟨by rw [(step_extendsReports hstep).cfg]; exact legal, stepKeepsBothPathsInvariant s t inv hstep⟩
  | issue s cmd _ ih =>
    obtain ⟨legal, rx, tx⟩ := ih
    obtain ⟨hcfg, hrx, htx⟩ := s.issue_frame cmd
    exact ⟨hcfg ▸ legal, by rw [hcfg, hrx]; exact rx, by rw [hcfg, htx]; exact tx⟩

/-- What holds of no pulse in the tail holds at index 0 only. -/
theorem index_zero_of_not_mem_tail {ps : List Pulse} {k : Nat} {p : Pulse} (hk : ps[k]? = some p)
    (h : p ∉ ps.tail) : k = 0 := by
  cases k with
  | zero => rfl
  | succ k =>
    rw [← List.getElem?_tail] at hk
    exact absurd (List.mem_of_getElem? hk) h

theorem RxInv.next_level {c : Config} {r : RxPath} (h : RxInv c r) {k : Nat} {p q : Pulse}
    (hp : r.pbuf[k]? = some p) (hq : r.pbuf[k + 1]? = some q) : q.lvl = p.lvl.flip := by
  obtain ⟨_, rfl⟩ := List.getElem?_eq_some_iff.mp hp
  obtain ⟨inside, rfl⟩ := List.getElem?_eq_some_iff.mp hq
  exact List.isChain_iff_getElem.mp h.bufferInv.levelsAlternate k inside

theorem RxInv.long_pulse {c : Config} {r : RxPath} (h : RxInv c r) {k : Nat} {p : Pulse}
    (hk : r.pbuf[k]? = some p) (long : isLong c p.n.toNat = true) : k = 0 ∧ p.n.toNat = nClamp c := by
  refine ⟨index_zero_of_not_mem_tail hk fun tail => ?_, ?_⟩
  · rw [h.tailNotLong p tail] at long
    cases long
  · rw [isLong_eq, decide_eq_true_iff] at long
    exact (h.pulseBound p (List.mem_of_getElem? hk)).antisymm long

theorem RxInv.empty_pulse {c : Config} {r : RxPath} (h : RxInv c r) {k : Nat} {p : Pulse}
    (hk : r.pbuf[k]? = some p) (zero : p.n = 0#32) : k = 0 ∧ p.lvl = .low :=
  ⟨index_zero_of_not_mem_tail hk fun tail => h.tailNotEmpty p tail zero,
    h.emptyPulseLow p (List.mem_of_getElem? hk) zero⟩

/-- Settles O48: every reachable state has a legal configuration and meets `Inv`, and the bounds are read off it. -/
theorem reachableStatesKeepTheBounds : Obligations.ReachableStatesKeepTheBounds := fun s reachable => by
  obtain ⟨legal, rx, tx⟩ := reachable.legal_and_inv
  have longest := frameLen_le legal
  exact ⟨fun _ _ _ => rx.next_level, rx.lastLevel, rx.lengthBound, rx.appendRun_length_le,
    fun _ _ => rx.long_pulse, rx.pulseBound, fun _ _ => rx.empty_pulse, rx.runBound,
    tx.offZeroWhenEmpty, tx.offInsideFrame, longest, by omega⟩

end Sys2Proof.Machine
end

section
/-! SUPPORT. The four channels (`20_memory.md`): the bytes of a word, the burst boundaries of the RX data channel and
the pull boundaries of the TX data channel, and the obligations about them. -/

namespace Sys2Proof.Machine

/-! ## Rules R54 and R79: words on a byte transport -/

theorem wordBytes_map_toNat (w : Word) :
    (wordBytes w).map BitVec.toNat =
      [w.toNat % 256, w.toNat / 256 % 256, w.toNat / 65536 % 256, w.toNat / 16777216] := by
  have top : w.toNat / 16777216 % 256 = w.toNat / 16777216 := by
    have := w.isLt
    omega
  simp [wordBytes, Nat.shiftRight_eq_div_pow, top]

/-- Appended bit vectors as a number: the high part counts in units of `2 ^ n`. -/
theorem toNat_append_eq_add {m n : Nat} (x : BitVec m) (y : BitVec n) :
    (x ++ y).toNat = x.toNat * 2 ^ n + y.toNat := by
  rw [BitVec.toNat_append, ← Nat.shiftLeft_add_eq_or_of_lt y.isLt, Nat.shiftLeft_eq]

theorem wordOfBytes_toNat (b0 b1 b2 b3 : Byte) :
    (wordOfBytes b0 b1 b2 b3).toNat =
      ((b3.toNat * 256 + b2.toNat) * 256 + b1.toNat) * 256 + b0.toNat := by
  simp only [wordOfBytes, toNat_append_eq_add, Nat.reducePow]

theorem wordBytes_wordOfBytes (b0 b1 b2 b3 : Byte) : wordBytes (wordOfBytes b0 b1 b2 b3) = [b0, b1, b2, b3] := by
  refine List.map_injective_iff.mpr BitVec.toNat_injective ?_
  have l0 := b0.isLt
  have l1 := b1.isLt
  have l2 := b2.isLt
  simp only [wordBytes_map_toNat, wordOfBytes_toNat, List.map_cons, List.map_nil, List.cons.injEq, and_true]
  omega

theorem TxReply.count_toNat {r : TxReply} (h : r.bytes.length < 2 ^ 32) : r.count.toNat = r.bytes.length := by
  rw [TxReply.count, BitVec.toNat_ofNat, Nat.mod_eq_of_lt h]

/-- Settles O14: the word of a reply is its count (`TxReply.count_toNat`). -/
theorem wordsTravelLittleEndian : Obligations.WordsTravelLittleEndian :=
  ⟨wordBytes_map_toNat, wordBytes_wordOfBytes, fun r short => ⟨r.count, r.count_toNat short, rfl⟩⟩

/-! ## Rule R65: burst boundaries -/

theorem exec_rxBurst_even {len : BitVec 24} {s : State} (here : len.toNat ≤ s.rxData.length)
    (even : len.toNat % 2 = 0) :
    exec (.rxBurst len) s = .next ((s.rxDrop len.toNat).runReceive (s.rxData.take len.toNat)) := by
  change execRxBurst len s = _
  obtain ⟨waits, -⟩ | ⟨-, odd, -⟩ | ⟨-, -, e⟩ := execRxBurst_cases len s
  · omega
  · omega
  · exact e

theorem exec_rxBurst_odd {len : BitVec 24} {s : State} (here : len.toNat ≤ s.rxData.length)
    (odd : len.toNat % 2 = 1) :
    exec (.rxBurst len) s = .next ((s.rxDrop len.toNat).emit (.malformed len)) := by
  change execRxBurst len s = _
  obtain ⟨waits, -⟩ | ⟨-, -, e⟩ | ⟨-, even, -⟩ := execRxBurst_cases len s
  · omega
  · exact e
  · omega

theorem State.rxDrop_rxDrop (s : State) (m n : Nat) : (s.rxDrop m).rxDrop n = s.rxDrop (m + n) := by
  simp [State.rxDrop]

/-- The receive path runs over an even number of bytes and then over further ones as over all of them at once. -/
theorem State.runReceive_runReceive (s : State) (a b : List Byte) (even : a.length % 2 = 0) :
    (s.runReceive a).runReceive b = s.runReceive (a ++ b) := by
  simp [State.runReceive, samplesOf_append a b even, receive_append]

/-- Settles O28: two even bursts run over the bytes of the joined one (`State.runReceive_runReceive`); an odd burst
only takes its bytes and reports. -/
theorem burstBoundariesCarryNoMeaning : Obligations.BurstBoundariesCarryNoMeaning := by
  intro s m n fits here
  have here_m : m.toNat ≤ s.rxData.length := by omega
  have here_n : n.toNat ≤ (s.rxData.drop m.toNat).length := by
    rw [List.length_drop]; omega
  constructor
  · intro even_m even_n
    have sum : (m + n).toNat = m.toNat + n.toNat := BitVec.toNat_add_of_lt fits
    have split : s.rxData.take (m.toNat + n.toNat) =
        s.rxData.take m.toNat ++ (s.rxData.drop m.toNat).take n.toNat := List.take_add
    have even_take : (s.rxData.take m.toNat).length % 2 = 0 := by
      rwa [List.length_take_of_le here_m]
    rw [exec_rxBurst_even here_m even_m, exec_rxBurst_even (len := m + n) (by omega) (by omega), sum, split,
      ← State.runReceive_runReceive _ _ _ even_take, ← State.rxDrop_rxDrop]
    exact exec_rxBurst_even here_n even_n
  · intro odd_m odd_n
    rw [exec_rxBurst_odd here_m odd_m]
    refine (exec_rxBurst_odd here_n odd_n).trans ?_
    simp [State.emit, State.rxDrop]

/-! ## Rule R66: pull boundaries -/

/-- The bytes of a queue's frames from the cursor on: those of the head frame, then those of the others. -/
theorem drop_flatMap_frame_cons (c : Config) (cv : BitVec 4) (rest : List (BitVec 4)) {off : Nat}
    (h : off ≤ frameLen c) :
    ((cv :: rest).flatMap (frame c)).drop off = (frame c cv).drop off ++ rest.flatMap (frame c) := by
  rw [List.flatMap_cons, List.drop_append_of_le_length (by rwa [frame_length])]

/-- The feeder loop cuts the bytes of the queue from the cursor on after `n` bytes: it writes the first part and
leaves the second (rules R190, R191). -/
theorem feedQueue_cuts {c : Config} (legal : c.legal = true) (q : List (BitVec 4)) (off n : Nat)
    (h : CursorInside c q off) :
    (feedQueue c q off n).1 = ((q.flatMap (frame c)).drop off).take n ∧
      ((feedQueue c q off n).2.1.flatMap (frame c)).drop (feedQueue c q off n).2.2 =
        ((q.flatMap (frame c)).drop off).drop n := by
  induction q generalizing off n with
  | nil => simp [feedQueue_nil]
  | cons cv rest ih =>
    have inside := h.lt legal
    by_cases within : off + n < frameLen c
    · rw [feedQueue_within c cv rest off n within]
      refine ⟨?_, List.drop_drop.symm⟩
      rw [drop_flatMap_frame_cons c cv rest inside.le, frameSlice_eq_take_drop c cv off n within.le,
        List.take_append_of_le_length (by rw [List.length_drop, frame_length]; omega)]
    · obtain ⟨written, left⟩ := ih 0 (n - (frameLen c - off)) (.zero legal rest)
      have served : ((frame c cv).drop off).length = frameLen c - off := by rw [List.length_drop, frame_length]
      have whole : frameSlice c cv off (frameLen c - off) = (frame c cv).drop off := by
        rw [frameSlice_eq_take_drop c cv off _ (by omega), List.take_of_length_le served.le]
      have all_taken : ((frame c cv).drop off).take n = (frame c cv).drop off := List.take_of_length_le (by omega)
      have none_left : ((frame c cv).drop off).drop n = [] := List.drop_of_length_le (by omega)
      rw [feedQueue_beyond c cv rest off n inside (not_lt.mp within), drop_flatMap_frame_cons c cv rest inside.le,
        whole]
      constructor
      · rw [written, List.drop_zero, List.take_append, served, all_taken]
      · rw [left, List.drop_zero, List.drop_append, served, none_left, List.nil_append]

theorem CursorInside.toNat_ofNat {c : Config} {q : List (BitVec 4)} {off : Nat} (h : CursorInside c q off)
    (legal : c.legal = true) : (BitVec.ofNat 32 off).toNat = off := by
  have lt := h.lt legal
  have le := frameLen_le legal
  rw [BitVec.toNat_ofNat]; omega

section Pull
variable {c : Config} {x : TxPath} (h : TxInv c x) (legal : c.legal = true) (n : Nat)
include h legal

/-- A pull writes the first pending bytes (rule R195). -/
theorem TxInv.feedPull_bytes : (Machine.feedPull c n x).1 = (pendingBytes c x).take n :=
  (feedQueue_cuts legal x.txq x.off.toNat n h.cursorInside).1

/-- A pull leaves the other bytes pending (rule R193). -/
theorem TxInv.pendingBytes_feedPull : pendingBytes c (Machine.feedPull c n x).2 = (pendingBytes c x).drop n := by
  obtain ⟨inside, -⟩ := feedQueue_keeps legal x.txq x.off.toNat n h.cursorInside
  obtain ⟨-, left⟩ := feedQueue_cuts legal x.txq x.off.toNat n h.cursorInside
  simpa only [pendingBytes, Machine.feedPull, inside.toNat_ofNat legal] using left

end Pull

/-- The state a pull of length `n` leaves (rule R217). -/
def State.pulled (s : State) (n : Nat) : State :=
  ({ s with tx := (feedPull s.cfg n s.tx).2 } : State).txReturn (feedPull s.cfg n s.tx).1

theorem exec_txPull (len : BitVec 24) (s : State) : exec (.txPull len) s = .next (s.pulled len.toNat) := rfl

@[simp] theorem State.pulled_cfg (s : State) (n : Nat) : (s.pulled n).cfg = s.cfg := rfl
@[simp] theorem State.pulled_tx (s : State) (n : Nat) : (s.pulled n).tx = (feedPull s.cfg n s.tx).2 := rfl
@[simp] theorem State.pulled_txData (s : State) (n : Nat) :
    (s.pulled n).txData =
      s.txData ++ [⟨(feedPull s.cfg n s.tx).1,
        (feedPull s.cfg n s.tx).1 ++ s.nextTxBuf.drop (feedPull s.cfg n s.tx).1.length⟩] := rfl

theorem execAll_cons_of_next {i : Instr} {s t : State} (is : List Instr) (h : exec i s = .next t) :
    execAll (i :: is) s = execAll is t := by
  rw [execAll, h, andThen]

/-- Pulls of any lengths return the first pending bytes, as many as were asked for. -/
theorem execAll_txPull {c : Config} (legal : c.legal = true) (lens : List (BitVec 24)) :
    ∀ s : State, s.cfg = c → TxInv c s.tx →
      ∃ (t : State) (rs : List TxReply),
        execAll (lens.map .txPull) s = .next t ∧ t.txData = s.txData ++ rs ∧ rs.length = lens.length ∧
        rs.flatMap TxReply.bytes = (pendingBytes c s.tx).take (lens.map BitVec.toNat).sum := by
  induction lens with
  | nil => exact fun s _ _ => ⟨s, [], rfl, (List.append_nil _).symm, rfl, rfl⟩
  | cons len lens ih =>
    rintro s rfl inv
    obtain ⟨t, rs, run, data, length, bytes⟩ :=
      ih (s.pulled len.toNat) (s.pulled_cfg _) (inv.feedPull legal len.toNat)
    rw [State.pulled_txData, List.append_assoc] at data
    refine ⟨t, _, (execAll_cons_of_next _ (exec_txPull len s)).trans run, data, congrArg Nat.succ length, ?_⟩
    rw [List.singleton_append, List.flatMap_cons, bytes, inv.feedPull_bytes legal, State.pulled_tx,
      inv.pendingBytes_feedPull legal, List.map_cons, List.sum_cons, List.take_add]

theorem flatMap_frame_length (c : Config) (q : List (BitVec 4)) :
    (q.flatMap (frame c)).length = q.length * frameLen c := by
  simp [List.length_flatMap]

/-- Settles O44: from a frame's start every byte of the queued frames is pending, so enough pulls return them all. -/
theorem pullBoundariesCarryNoMeaning : Obligations.PullBoundariesCarryNoMeaning := fun s lens legal inv => by
  obtain ⟨t, rs, run, data, length, bytes⟩ := execAll_txPull legal lens s rfl inv
  refine ⟨t, rs, run, data, length, bytes, fun start enough => ?_⟩
  have pending : pendingBytes s.cfg s.tx = s.tx.txq.flatMap (frame s.cfg) := by
    rw [pendingBytes, start]; rfl
  rw [bytes, pending, List.take_of_length_le (by rwa [flatMap_frame_length])]

end Sys2Proof.Machine
end

section
/-! SUPPORT. The encodings (`30_encoding.md`): the line code's timing, the opcode table, the decoder and the encoder,
the event words and the pseudo-instructions, and the obligations about them. -/

namespace Sys2Proof.Machine

/-! ## Rule R73: the timing of the line code -/

/-- Settles O17: `IVAL` is `0.32*FS` rounded. The narrow margin is ZERO's lower end, `30000*IVAL > 9*FS`: below
`FS = 25000` it takes the 8 that `IVAL` rounds up to from 23438 on, and fails with the 7 of 23437. -/
theorem encoderTimingFitsTheDecoder : Obligations.EncoderTimingFitsTheDecoder := by
  constructor
  · intro c _ fast
    rw [isOne_iff, isZero_iff, isLong_iff, ← Bool.not_eq_true, isLong_iff]
    unfold ival
    omega
  · intro c slow
    rw [← Bool.not_eq_true, isZero_iff, ival, slow]
    decide

/-! ## Fields of a word, in numbers -/

theorem extractLsb'_eq_iff {n : Nat} (w : BitVec n) (start len : Nat) (x : BitVec len) :
    w.extractLsb' start len = x ↔ w.toNat / 2 ^ start % 2 ^ len = x.toNat := by
  rw [← BitVec.toNat_inj, BitVec.extractLsb'_toNat, Nat.shiftRight_eq_div_pow]

theorem opcField_toNat (w : Word) : (opcField w).toNat = w.toNat / 2 ^ 28 := by
  rw [← (extractLsb'_eq_iff w 28 4 (opcField w)).mp rfl]
  omega

theorem opcField_eq_iff (w : Word) (x : BitVec 4) : opcField w = x ↔ w.toNat / 2 ^ 28 = x.toNat := by
  rw [← BitVec.toNat_inj, opcField_toNat]

theorem lenField_append (hi : BitVec 8) (len : BitVec 24) : lenField (hi ++ len) = len := by
  rw [lenField, extractLsb'_eq_iff, toNat_append_eq_add]
  omega

theorem cvField_append (hi : BitVec 28) (cv : BitVec 4) : cvField (hi ++ cv) = cv := by
  rw [cvField, extractLsb'_eq_iff, toNat_append_eq_add]
  omega

/-- A word is the number above its low `n` bits, followed by these. -/
theorem append_extractLsb'_zero {m n : Nat} {w : BitVec (m + n)} {hi : BitVec m} (h : w.toNat / 2 ^ n = hi.toNat) :
    hi ++ w.extractLsb' 0 n = w := by
  apply BitVec.eq_of_toNat_eq
  rw [toNat_append_eq_add, ← h, BitVec.extractLsb'_toNat]
  exact Nat.div_add_mod' _ _

/-! ## Rule R75: the rows of the opcode table -/

/-- A mask of the upper `m` bits tests the number they hold. -/
theorem and_upper_eq_iff {m n : Nat} (w : BitVec (m + n)) (hi : BitVec m) :
    w &&& (BitVec.allOnes m ++ 0#n) = hi ++ 0#n ↔ w.toNat / 2 ^ n = hi.toNat := by
  have masked : w &&& (BitVec.allOnes m ++ 0#n) = w.extractLsb' n m ++ 0#n := by
    conv_lhs => rw [← BitVec.extractLsb'_append_extractLsb' (x := w)]
    rw [BitVec.and_append, BitVec.and_allOnes, BitVec.and_zero]
  have upper : w.toNat / 2 ^ n < 2 ^ m := by
    rw [Nat.div_lt_iff_lt_mul (Nat.two_pow_pos n), ← Nat.pow_add]
    exact w.isLt
  rw [masked, BitVec.append_left_inj, extractLsb'_eq_iff, Nat.mod_eq_of_lt upper]

theorem exactRow_iff (w v : Word) : w &&& 0xFFFFFFFF#32 = v ↔ w = v := by
  rw [show 0xFFFFFFFF#32 = BitVec.allOnes 32 from rfl, BitVec.and_allOnes]

theorem burstRow_iff (w : Word) : w &&& 0xFF000000#32 = 0x20000000#32 ↔ w.toNat / 2 ^ 24 = 0x20 :=
  and_upper_eq_iff (m := 8) (n := 24) w 0x20#8

theorem requestRow_iff (w : Word) : w &&& 0xFFFFFFF0#32 = 0x30000000#32 ↔ w.toNat / 2 ^ 4 = 0x3000000 :=
  and_upper_eq_iff (m := 28) (n := 4) w 0x3000000#28

theorem pullRow_iff (w : Word) : w &&& 0xFF000000#32 = 0x40000000#32 ↔ w.toNat / 2 ^ 24 = 0x40 :=
  and_upper_eq_iff (m := 8) (n := 24) w 0x40#8

/-- Two rows that match one word agree on the bits both test; no two different rows do. -/
theorem row_unique {w : Word} {r1 r2 : OpcodeRow} (mem1 : r1 ∈ opcodeTable) (mem2 : r2 ∈ opcodeTable)
    (match1 : r1.matchesWord w = true) (match2 : r2.matchesWord w = true) : r1 = r2 := by
  have eq_of_agree : ∀ a ∈ opcodeTable, ∀ b ∈ opcodeTable, a.value &&& b.mask = b.value &&& a.mask → a = b := by
    decide
  rw [OpcodeRow.matchesWord, decide_eq_true_iff] at match1 match2
  refine eq_of_agree r1 mem1 r2 mem2 ?_
  rw [← match1, ← match2, BitVec.and_assoc, BitVec.and_assoc, BitVec.and_comm r1.mask]

theorem encodesRow (i : Instr) : Laws.EncodesRow.Statement i := by
  cases i with
  | nop => exact Laws.EncodesRow.nop
  | rstRx => exact Laws.EncodesRow.rstRx
  | rstTx => exact Laws.EncodesRow.rstTx
  | rstAll => exact Laws.EncodesRow.rstAll
  | rxBurst len => exact Laws.EncodesRow.rxBurst len
  | txReq cv => exact Laws.EncodesRow.txReq cv
  | txPull len => exact Laws.EncodesRow.txPull len

/-! ## Rules R74-R76: the decoder and the encoder -/

/-- The decoder's tests, in numbers. -/
theorem decode_eq (w : Word) :
    decode w =
      if w.toNat = 0 then .ok .nop
      else if w.toNat = 0x10000001 then .ok .rstRx
      else if w.toNat = 0x10000002 then .ok .rstTx
      else if w.toNat = 0x10000003 then .ok .rstAll
      else if w.toNat / 2 ^ 24 = 0x20 then .ok (.rxBurst (lenField w))
      else if w.toNat / 2 ^ 4 = 0x3000000 then .ok (.txReq (cvField w))
      else if w.toNat / 2 ^ 24 = 0x40 then .ok (.txPull (lenField w))
      else .error (illegalReason w) := by
  simp only [decode, burstRow_iff, requestRow_iff, pullRow_iff]
  simp only [← BitVec.toNat_inj, BitVec.toNat_ofNat, Nat.reducePow, Nat.reduceMod]

theorem encode_rxBurst_toNat (len : BitVec 24) : (encode (.rxBurst len)).toNat = 0x20 * 2 ^ 24 + len.toNat :=
  toNat_append_eq_add 0x20#8 len

theorem encode_txReq_toNat (cv : BitVec 4) : (encode (.txReq cv)).toNat = 0x3000000 * 2 ^ 4 + cv.toNat :=
  toNat_append_eq_add 0x3000000#28 cv

theorem encode_txPull_toNat (len : BitVec 24) : (encode (.txPull len)).toNat = 0x40 * 2 ^ 24 + len.toNat :=
  toNat_append_eq_add 0x40#8 len

/-- Of an operand's word, the tests of the rows above its own fail. -/
theorem decode_encode (i : Instr) : decode (encode i) = .ok i := by
  cases i with
  | nop | rstRx | rstTx | rstAll => rfl
  | rxBurst len =>
    have value := encode_rxBurst_toNat len
    have field : lenField (encode (.rxBurst len)) = len := lenField_append _ len
    simp (disch := omega) only [decode_eq, if_neg, if_pos, field]
  | txReq cv =>
    have value := encode_txReq_toNat cv
    have field : cvField (encode (.txReq cv)) = cv := cvField_append _ cv
    simp (disch := omega) only [decode_eq, if_neg, if_pos, field]
  | txPull len =>
    have value := encode_txPull_toNat len
    have field : lenField (encode (.txPull len)) = len := lenField_append _ len
    simp (disch := omega) only [decode_eq, if_neg, if_pos, field]

/-- Each row's test fixes every bit of the word outside the operand's field. -/
theorem encode_of_decode {w : Word} {i : Instr} (h : decode w = .ok i) : encode i = w := by
  rw [decode_eq] at h
  split_ifs at h with nop rstRx rstTx rstAll burst request pull <;> cases h
  · exact BitVec.eq_of_toNat_eq nop.symm
  · exact BitVec.eq_of_toNat_eq rstRx.symm
  · exact BitVec.eq_of_toNat_eq rstTx.symm
  · exact BitVec.eq_of_toNat_eq rstAll.symm
  · exact append_extractLsb'_zero (m := 8) (n := 24) (hi := 0x20#8) burst
  · exact append_extractLsb'_zero (m := 28) (n := 4) (hi := 0x3000000#28) request
  · exact append_extractLsb'_zero (m := 8) (n := 24) (hi := 0x40#8) pull

theorem wordOfBytes_extractLsb' (w : Word) :
    wordOfBytes (w.extractLsb' 0 8) (w.extractLsb' 8 8) (w.extractLsb' 16 8) (w.extractLsb' 24 8) = w := by
  apply BitVec.eq_of_toNat_eq
  simp only [wordOfBytes_toNat, BitVec.extractLsb'_toNat, Nat.shiftRight_eq_div_pow]
  omega

theorem decodeBytes_wordBytes_append (w : Word) (rest : List Byte) :
    decodeBytes (wordBytes w ++ rest) = (decode w).map fun i => (i, rest) :=
  congrArg (fun v => (decode v).map fun i => (i, rest)) (wordOfBytes_extractLsb' w)

/-- Settles O8: `decode` and `encode` are inverse to each other, and a word comes off a byte transport as it went on. -/
theorem decodeAndEncodeAgree : Obligations.DecodeAndEncodeAgree := by
  refine ⟨decode_encode, fun _ _ => encode_of_decode, fun i rest => ?_⟩
  rw [encodeBytes, decodeBytes_wordBytes_append, decode_encode]
  rfl

/-- Settles O11, by evaluation of the decoder and of the event words. -/
theorem writtenOutWordsReadAsTheSpecSays : Obligations.WrittenOutWordsReadAsTheSpecSays :=
  ⟨rfl, rfl, rfl, rfl, ⟨_, rfl⟩, rfl, rfl, rfl⟩

/-! ## Rules R75 and R77: rows and refused words -/

/-- The tests of the rows, in numbers. -/
theorem noRow_iff (w : Word) :
    (∀ r ∈ opcodeTable, r.matchesWord w = false) ↔
      w.toNat ≠ 0 ∧ w.toNat ≠ 0x10000001 ∧ w.toNat ≠ 0x10000002 ∧ w.toNat ≠ 0x10000003 ∧
        w.toNat / 2 ^ 24 ≠ 0x20 ∧ w.toNat / 2 ^ 4 ≠ 0x3000000 ∧ w.toNat / 2 ^ 24 ≠ 0x40 := by
  simp only [opcodeTable, OpcodeRow.matchesWord, decide_eq_false_iff_not, List.forall_mem_cons, List.not_mem_nil,
    false_implies, implies_true, and_true, exactRow_iff, burstRow_iff, requestRow_iff, pullRow_iff]
  simp only [← BitVec.toNat_inj, BitVec.toNat_ofNat, Nat.reducePow, Nat.reduceMod, ne_eq]

/-- The decoder's tests are those of the rows: it refuses a word exactly where all of them fail. -/
theorem decode_error_iff_noRow (w : Word) :
    (∃ e, decode w = .error e) ↔ ∀ r ∈ opcodeTable, r.matchesWord w = false := by
  rw [noRow_iff, decode_eq]
  split_ifs <;> simp [-Nat.reducePow, *]

/-- The words of no row are the groups of rule R77. -/
theorem noRow_iff_illegalGroup (w : Word) :
    (∀ r ∈ opcodeTable, r.matchesWord w = false) ↔
      (opcField w = 0x0#4 ∧ w ≠ 0#32) ∨
      (opcField w = 0x1#4 ∧ (w.extractLsb' 0 2 = 0#2 ∨ w.extractLsb' 2 26 ≠ 0#26)) ∨
      ((opcField w = 0x2#4 ∨ opcField w = 0x4#4) ∧ w.extractLsb' 24 4 ≠ 0#4) ∨
      (opcField w = 0x3#4 ∧ w.extractLsb' 4 24 ≠ 0#24) ∨
      5 ≤ (opcField w).toNat := by
  rw [noRow_iff]
  simp only [ne_eq, opcField_eq_iff, opcField_toNat, extractLsb'_eq_iff]
  simp only [← BitVec.toNat_inj, BitVec.toNat_ofNat]
  omega

/-- Settles O9: both sides are the numeric tests of the rows. -/
theorem illegalWordsAreThoseOfNoRow : Obligations.IllegalWordsAreThoseOfNoRow := fun w =>
  ⟨decode_error_iff_noRow w, (decode_error_iff_noRow w).trans (noRow_iff_illegalGroup w)⟩

/-- A word of a row decodes to some operation `i`, so it is `encode i`, which matches the row of `i`: the same row. -/
theorem exists_decode_of_row {w : Word} {r : OpcodeRow} (mem : r ∈ opcodeTable) (selected : r.matchesWord w = true) :
    ∃ i, decode w = .ok i ∧ i.mnemonic = r.mnemonic := by
  cases h : decode w with
  | error e =>
    have unmatched := (decode_error_iff_noRow w).mp ⟨e, h⟩ r mem
    rw [selected] at unmatched
    cases unmatched
  | ok i =>
    obtain ⟨r', mem', mnemonic, value⟩ := encodesRow i
    rw [encode_of_decode h] at value
    rw [← row_unique mem' mem (decide_eq_true value) selected]
    exact ⟨i, rfl, mnemonic.symm⟩

/-- Settles O10: the word is the encoding of its row's operation, so its low bits are the operand. -/
theorem opcodeRowsAreDisjoint : Obligations.OpcodeRowsAreDisjoint := by
  refine ⟨fun w r1 r2 => row_unique, fun w r mem selected => ?_⟩
  obtain ⟨i, decodes, mnemonic⟩ := exists_decode_of_row mem selected
  obtain rfl := encode_of_decode decodes
  refine ⟨i, decodes, mnemonic, ?_, ?_⟩
  · rintro len (rfl | rfl)
    · rw [encode_rxBurst_toNat]; omega
    · rw [encode_txPull_toNat]; omega
  · rintro cv rfl
    rw [encode_txReq_toNat]; omega

/-! ## Rules R78 and R79: an issued operation -/

/-- A step runs the decoded operation where its data is on its channel (rule R210). -/
theorem step_eq_exec {s : State} {w : Word} {ws : List Word} {i : Instr} (legal : s.cfg.legal = true)
    (next : s.cmds = w :: ws) (decodes : decode w = .ok i)
    (here : ({ s with cmds := ws } : State).operandsHere i = true) : step s = exec i { s with cmds := ws } := by
  simp [step, State.hasRun, State.fetch, legal, next, decodes, here]

/-- A well-formed command brings the data its operation takes. -/
theorem State.operandsHere_issue (s : State) {i : Instr} {d b : List Byte}
    (wellFormed : (Command.issue i d b).wellFormed = true) (ws : List Word) :
    ({ s.issue (.issue i d b) with cmds := ws } : State).operandsHere i = true := by
  cases i with
  | nop | rstRx | rstTx | rstAll | txReq | txPull => rfl
  | rxBurst len =>
    rw [Command.wellFormed, Bool.and_eq_true, decide_eq_true_iff] at wellFormed
    obtain ⟨length, -⟩ := wellFormed
    have enough : len.toNat ≤ (s.rxData ++ d).length := by rw [List.length_append]; omega
    exact decide_eq_true enough

/-- Settles O7: the word on the idle channel is the encoding of `i`, and its data came with it. -/
theorem issuedOperationRunsNext : Obligations.IssuedOperationRunsNext := fun s i _ _ legal idle wellFormed =>
  have next : s.cmds ++ [encode i] = [encode i] := by rw [idle, List.nil_append]
  step_eq_exec legal next (decode_encode i) (s.operandsHere_issue wellFormed [])

/-! ## Rules R80 and R81: event words -/

theorem decodedWord_fields (id : BitVec 20) (cmd : BitVec 4) :
    let w : Word := 0x10#8 ++ id ++ cmd
    w.extractLsb' 28 4 = 0x1#4 ∧ w.extractLsb' 24 4 = 0#4 ∧
      w.extractLsb' 4 20 = id ∧ w.extractLsb' 0 4 = cmd ∧ w.extractLsb' 0 24 = id ++ cmd := by
  simp only [extractLsb'_eq_iff, toNat_append_eq_add, BitVec.toNat_ofNat]
  omega

theorem inconclusiveWord_fields (n : BitVec 28) :
    let w : Word := 0x2#4 ++ n
    w.extractLsb' 28 4 = 0x2#4 ∧ w.extractLsb' 0 28 = n := by
  simp only [extractLsb'_eq_iff, toNat_append_eq_add, BitVec.toNat_ofNat]
  omega

theorem malformedWord_fields (len : BitVec 24) :
    let w : Word := 0x40#8 ++ len
    w.extractLsb' 28 4 = 0x4#4 ∧ w.extractLsb' 24 4 = 0#4 ∧ w.extractLsb' 0 24 = len := by
  simp only [extractLsb'_eq_iff, toNat_append_eq_add, BitVec.toNat_ofNat]
  omega

theorem txqFullWord_fields (cmd : BitVec 4) :
    let w : Word := 0x6000000#28 ++ cmd
    w.extractLsb' 28 4 = 0x6#4 ∧ w.extractLsb' 4 24 = 0#24 ∧ w.extractLsb' 0 4 = cmd := by
  simp only [extractLsb'_eq_iff, toNat_append_eq_add, BitVec.toNat_ofNat]
  omega

/-- The tag column of rule R81's table. -/
def Event.tag : Event → BitVec 4
  | .decoded _ _ => 0x1#4
  | .inconclusive _ => 0x2#4
  | .mismatch _ _ => 0x3#4
  | .malformed _ => 0x4#4
  | .illegal _ => 0x5#4
  | .txqFull _ => 0x6#4

theorem Event.tag_range (e : Event) : 1 ≤ e.tag.toNat ∧ e.tag.toNat ≤ 6 := by
  cases e <;> simp [Event.tag]

theorem Event.words_eq_cons (e : Event) : ∃ w more, e.words = w :: more ∧ w.extractLsb' 28 4 = e.tag := by
  cases e with
  | decoded id cmd => exact ⟨_, _, rfl, (decodedWord_fields id cmd).1⟩
  | inconclusive n => exact ⟨_, _, rfl, (inconclusiveWord_fields n).1⟩
  | mismatch computed expected => exact ⟨_, _, rfl, rfl⟩
  | malformed len => exact ⟨_, _, rfl, (malformedWord_fields len).1⟩
  | illegal word => exact ⟨_, _, rfl, rfl⟩
  | txqFull cmd => exact ⟨_, _, rfl, (txqFullWord_fields cmd).1⟩

/-- Settles O12: one row of the table after the other, and the range of the tag column. -/
theorem eventWordsFollowTheTable : Obligations.EventWordsFollowTheTable := by
  refine ⟨fun id cmd => ⟨_, rfl, decodedWord_fields id cmd⟩, fun n => ⟨_, rfl, inconclusiveWord_fields n⟩,
    fun _ _ => ⟨_, rfl, rfl, rfl⟩, fun len => ⟨_, rfl, malformedWord_fields len⟩, fun _ => ⟨_, rfl, rfl, rfl⟩,
    fun cmd => ⟨_, rfl, txqFullWord_fields cmd⟩, fun e => ?_⟩
  obtain ⟨w, more, words, tag⟩ := e.words_eq_cons
  exact ⟨w, more, words, tag ▸ e.tag_range⟩

/-- A reader of the event stream: the event whose words come first, told by its tag, and the words after them. -/
def readEvent : List Word → Option (Event × List Word)
  | [] => none
  | w :: rest =>
    match w.extractLsb' 28 4, rest with
    | 0x1#4, rest => some (.decoded (w.extractLsb' 4 20) (w.extractLsb' 0 4), rest)
    | 0x2#4, rest => some (.inconclusive (w.extractLsb' 0 28), rest)
    | 0x3#4, computed :: expected :: rest => some (.mismatch computed expected, rest)
    | 0x4#4, rest => some (.malformed (w.extractLsb' 0 24), rest)
    | 0x5#4, word :: rest => some (.illegal word, rest)
    | 0x6#4, rest => some (.txqFull (w.extractLsb' 0 4), rest)
    | _, _ => none

theorem readEvent_words_append (e : Event) (rest : List Word) : readEvent (e.words ++ rest) = some (e, rest) := by
  cases e with
  | mismatch | illegal => rfl
  | decoded id cmd =>
    obtain ⟨tag, -, idField, cmdField, -⟩ := decodedWord_fields id cmd
    simp only [Event.words, List.singleton_append, readEvent, tag, idField, cmdField]
  | inconclusive n =>
    obtain ⟨tag, field⟩ := inconclusiveWord_fields n
    simp only [Event.words, List.singleton_append, readEvent, tag, field]
  | malformed len =>
    obtain ⟨tag, -, field⟩ := malformedWord_fields len
    simp only [Event.words, List.singleton_append, readEvent, tag, field]
  | txqFull cmd =>
    obtain ⟨tag, -, field⟩ := txqFullWord_fields cmd
    simp only [Event.words, List.singleton_append, readEvent, tag, field]

theorem readEvent_eventStream_cons (e : Event) (es : List Event) :
    readEvent (eventStream (e :: es)) = some (e, eventStream es) :=
  readEvent_words_append e (eventStream es)

/-- Settles O13: `readEvent` takes the same event off both streams. -/
theorem eventStreamIsUniquelyReadable : Obligations.EventStreamIsUniquelyReadable := by
  intro a b same
  induction a generalizing b with
  | nil =>
    cases b with
    | nil => rfl
    | cons f b =>
      have read := readEvent_eventStream_cons f b
      rw [← same] at read
      cases read
  | cons e a ih =>
    have read := readEvent_eventStream_cons e a
    rw [same] at read
    cases b with
    | nil => cases read
    | cons f b =>
      rw [readEvent_eventStream_cons, Option.some.injEq, Prod.mk.injEq] at read
      obtain ⟨rfl, rest⟩ := read
      rw [ih b rest.symm]

/-! ## Rules R82 and R83: pseudo-instructions -/

theorem levelSamples_length (l : Level) (n : Nat) : (levelSamples l n).length = 2 * n := by
  simp [levelSamples, sampleBytes, Nat.mul_comm]

/-- A burst of silence is assembled where one word can name its bytes. -/
theorem assemble_rxSilence (c : Config) (n : Nat) :
    assemble c [.rxSilence n] = if 2 * n ≤ maxLen then some [burstCommand (levelSamples .low n)] else none := by
  have bytes : [DataItem.low n].flatMap (DataItem.bytes c) = levelSamples .low n := List.append_nil _
  have command : (ScriptLine.rxBurst [.low n]).command c =
      if 2 * n ≤ maxLen then some (burstCommand (levelSamples .low n)) else none := by
    rw [ScriptLine.command, bytes, levelSamples_length]
  show [ScriptLine.rxBurst [.low n]].mapM (ScriptLine.command c) = _
  rw [List.mapM_cons, command]
  split <;> rfl

/-- Settles O55: the expansions evaluate, and 16777215 is the `maxLen` of `assemble_rxSilence`. -/
theorem pseudoInstructionsExpand : Obligations.PseudoInstructionsExpand := fun c _ n =>
  ⟨rfl, rfl, rfl, fun fits => (assemble_rxSilence c n).trans (if_pos fits),
    fun long => (assemble_rxSilence c n).trans (if_neg (Nat.not_le_of_lt long))⟩

end Sys2Proof.Machine
end

section
/-! SUPPORT. The envelope detector (`40_envelope_detector.md`): the squares of sample bytes, the level as a comparison
of the power, the powers that no sample has, and the obligations about them. -/

namespace Sys2Proof.Machine

/-! ## Rule R100: the power of a sample -/

theorem power_neg_left (i q : Int) : power (-i) q = power i q := by simp [power]

theorem power_comm (i q : Int) : power i q = power q i := Int.add_comm _ _

theorem power_nonneg (i q : Int) : 0 ≤ power i q := add_nonneg (mul_self_nonneg i) (mul_self_nonneg q)

theorem s8_range (b : Byte) : -128 ≤ s8 b ∧ s8 b ≤ 127 := by
  have byte := b.isLt
  unfold s8
  split <;> omega

theorem s8_mul_self_le (b : Byte) : s8 b * s8 b ≤ 16384 := by
  obtain ⟨low, high⟩ := s8_range b
  have magnitude : |s8 b| ≤ |128| := abs_le.mpr ⟨low, high.trans (by decide)⟩
  exact abs_le_iff_mul_self_le.mp magnitude

/-- Of the two square roots of the largest square, 128 is not a byte's value. -/
theorem s8_mul_self_eq_max_iff (b : Byte) : s8 b * s8 b = 16384 ↔ s8 b = -128 := by
  have roots : s8 b * s8 b = 128 * 128 ↔ s8 b = 128 ∨ s8 b = -128 := mul_self_eq_mul_self_iff
  obtain ⟨-, high⟩ := s8_range b
  omega

/-- Two squares of at most 16384 add up to 32768 exactly where each of them is 16384. -/
theorem power_s8_eq_max_iff (bi bq : Byte) :
    power (s8 bi) (s8 bq) = 32768 ↔ s8 bi = -128 ∧ s8 bq = -128 := by
  rw [← s8_mul_self_eq_max_iff, ← s8_mul_self_eq_max_iff, power]
  have squareI := s8_mul_self_le bi
  have squareQ := s8_mul_self_le bq
  omega

theorem power_s8_le (bi bq : Byte) : power (s8 bi) (s8 bq) ≤ 32768 :=
  add_le_add (s8_mul_self_le bi) (s8_mul_self_le bq)

/-- Settles O21: the power is a sum of two squares, and a byte's square is at most 16384, which only -128 reaches. -/
theorem powerIsExactAndBounded : Obligations.PowerIsExactAndBounded :=
  ⟨fun i q => ⟨rfl, (power_neg_left i q).symm, power_comm i q⟩,
    fun bi bq => ⟨power_nonneg _ _, power_s8_le bi bq, power_s8_eq_max_iff bi bq⟩, rfl⟩

/-! ## Rule R101: the level of a sample -/

theorem classify_eq_high_iff (i q : Int) : classify i q = .high ↔ power i q > 3500 := by
  simp [classify, highThreshold]

theorem classify_eq_low_iff (i q : Int) : classify i q = .low ↔ power i q ≤ 3500 := by
  simp [classify, highThreshold]

/-! ## Rule R104: the corner cases of the threshold -/

/-- A number that a prime of the form 4k + 3 divides exactly once is no power: in a sum of two squares such a prime
has an even exponent. -/
theorem power_ne_of_prime_dvd_once {p n : Nat} (prime : p.Prime) (form : p % 4 = 3) (dvd : p ∣ n)
    (once : ¬ p ^ 2 ∣ n) (i q : Int) : power i q ≠ n := by
  intro equal
  have : Fact p.Prime := ⟨prime⟩
  have nonzero : n ≠ 0 := by
    rintro rfl
    exact once (dvd_zero _)
  have squares : n = i.natAbs ^ 2 + q.natAbs ^ 2 := by
    zify
    rw [← equal, sq_abs, sq_abs, sq, sq, power]
  obtain ⟨half, exponent⟩ : Even (padicValNat p n) :=
    Nat.eq_sq_add_sq_iff.mp ⟨_, _, squares⟩ p (Nat.mem_primeFactors.mpr ⟨prime, dvd, nonzero⟩) form
  have positive : 1 ≤ padicValNat p n := one_le_padicValNat_of_dvd nonzero dvd
  have belowTwo : ¬ 2 ≤ padicValNat p n := fun two => once ((padicValNat_dvd_iff_le nonzero).mpr two)
  omega

/-- The primes are 3 of 3498 = 2 * 3 * 11 * 53, 3499 itself, and 7 of 3500 = 2^2 * 5^3 * 7. -/
theorem power_le_3497_or_ge_3501 (i q : Int) : power i q ≤ 3497 ∨ 3501 ≤ power i q := by
  have not3498 : power i q ≠ (3498 : Nat) :=
    power_ne_of_prime_dvd_once (p := 3) (by norm_num) (by decide) (by decide) (by decide) i q
  have not3499 : power i q ≠ (3499 : Nat) :=
    power_ne_of_prime_dvd_once (p := 3499) (by norm_num) (by decide) (by decide) (by decide) i q
  have not3500 : power i q ≠ (3500 : Nat) :=
    power_ne_of_prime_dvd_once (p := 7) (by norm_num) (by decide) (by decide) (by decide) i q
  omega

/-- The threshold lies between the squares of 59 and 60. -/
theorem classify_axis_eq_low_iff (i : Int) : classify i 0 = .low ↔ |i| ≤ 59 := by
  have axis : power i 0 = i * i := add_zero _
  have upTo59 : |i| ≤ 59 ↔ i * i ≤ 59 * 59 := abs_le_iff_mul_self_le (b := (59 : Int))
  have from60 : 60 ≤ |i| ↔ 60 * 60 ≤ i * i := abs_le_iff_mul_self_le (a := (60 : Int))
  rw [classify_eq_low_iff, axis]
  omega

/-- Settles O22: no power lies in the gap around the threshold, and the named samples evaluate. -/
theorem thresholdSeparatesTheLevels : Obligations.ThresholdSeparatesTheLevels :=
  ⟨fun i q => ⟨classify_eq_high_iff i q, classify_eq_low_iff i q⟩, fun _ _ => power_le_3497_or_ge_3501 _ _,
    rfl, rfl, rfl, fun b => classify_axis_eq_low_iff (s8 b), rfl, rfl, rfl, rfl, rfl, rfl⟩

end Sys2Proof.Machine
end

section
/-! SUPPORT. The pulse segmenter (`41_pulse_segmenter.md`): a burst of one sample, the two branches of a sample's
step, the run that becomes LONG, and the obligations about them. -/

namespace Sys2Proof.Machine

/-! ## Rule R127: a run longer than 2 ms -/

/-- The run counter holds `N_CLAMP` unchanged (rule R24). -/
theorem toNat_ofNat_nClamp {c : Config} (legal : c.legal = true) :
    (BitVec.ofNat 32 (nClamp c)).toNat = nClamp c := by
  obtain ⟨-, high⟩ := nClamp_lt c legal
  rw [BitVec.toNat_ofNat]
  omega

/-- The first sample of a run counts one, which is below `N_CLAMP`; from there `receive_run_long` holds whatever the
decode attempt left in the buffer. -/
theorem receive_newRun_long {c : Config} (legal : c.legal = true) {p : Sample} {ps : List Sample} {r : RxPath}
    (change : p.level ≠ r.last) (same : ∀ q ∈ ps, q.level = p.level) (long : nClamp c ≤ ps.length + 1) :
    (receive c (p :: ps) r).1 = { last := p.level, run := BitVec.ofNat 32 (nClamp c), pbuf := [] } := by
  obtain ⟨low, -⟩ := nClamp_lt c legal
  have first : (changeLevel c p.level r).1.run.toNat = 1 := rfl
  rw [receive_cons, sampleStep_change c p r change,
    receive_run_long c legal ps (changeLevel c p.level r).1 same (by omega) (fun clamped => by omega) (by omega)]
  rfl

/-- Settles O30: the burst's samples are a first one at a level change and `k - 1` more of its level, so that
`receive_newRun_long` applies. -/
theorem longRunEmptiesTheBuffer : Obligations.LongRunEmptiesTheBuffer := by
  intro s lvl k len legal change length long here level
  have count : (samplesOf (s.rxData.take len.toNat)).length = k := by
    rw [samplesOf_length, List.length_take_of_le here]
    omega
  have clamp : nClamp s.cfg ≤ k := by
    rwa [← isLong_iff, isLong_eq, decide_eq_true_iff] at long
  obtain ⟨low, -⟩ := nClamp_lt s.cfg legal
  refine ⟨_, exec_rxBurst_even here (by omega), ?_⟩
  rw [State.runReceive_rx, State.rxDrop_cfg, State.rxDrop_rx]
  cases samples : samplesOf (s.rxData.take len.toNat) with
  | nil =>
    rw [samples, List.length_nil] at count
    omega
  | cons p ps =>
    rw [samples, List.length_cons] at count
    rw [samples, List.forall_mem_cons] at level
    obtain ⟨rfl, same⟩ := level
    rw [receive_newRun_long legal change.symm same (by omega)]
    exact ⟨rfl, rfl, toNat_ofNat_nClamp legal, low⟩

/-! ## Rules R121 and R122: a burst of one sample -/

/-- A burst of one sample takes its two bytes and is that sample's step (rules R102, R215). -/
theorem exec_rxBurst_oneSample {s : State} {bi bq : Byte} {rest : List Byte} (data : s.rxData = bi :: bq :: rest) :
    exec (.rxBurst 2#24) s =
      .next { s with
        rxData := rest
        rx := (sampleStep s.cfg ⟨s8 bi, s8 bq⟩ s.rx).1
        evs := s.evs ++ (sampleStep s.cfg ⟨s8 bi, s8 bq⟩ s.rx).2.toList } := by
  have here : (2#24).toNat ≤ s.rxData.length := by simp [data]
  rw [exec_rxBurst_even here rfl]
  simp [State.runReceive, State.rxDrop, data, receive_cons, receive_nil]

/-- A sample of the current level (rule R122). -/
theorem sampleStep_same (c : Config) (p : Sample) (r : RxPath) (h : p.level = r.last) :
    sampleStep c p r = (extendRun c r, none) := if_pos h

theorem extendRun_eq (c : Config) (r : RxPath) :
    extendRun c r =
      if 500 * (r.run + 1#32).toNat > c.fs then { last := r.last, run := BitVec.ofNat 32 (nClamp c), pbuf := [] }
      else { last := r.last, run := r.run + 1#32, pbuf := r.pbuf } :=
  if_congr (isLong_iff c _) rfl rfl

/-- Settles O23: the step of a sample of the current level is `extendRun`, which reports nothing. -/
theorem sameLevelSampleExtendsTheRun : Obligations.SameLevelSampleExtendsTheRun := by
  intro s bi bq rest data same
  rw [exec_rxBurst_oneSample data, sampleStep_same s.cfg ⟨s8 bi, s8 bq⟩ s.rx same, extendRun_eq,
    Option.toList_none, List.append_nil]
  rfl

/-- Settles O24: the step of a sample of the other level is `changeLevel`. -/
theorem levelChangeAppendsOnePulse : Obligations.LevelChangeAppendsOnePulse := by
  intro s bi bq rest data change
  rw [exec_rxBurst_oneSample data, sampleStep_change s.cfg ⟨s8 bi, s8 bq⟩ s.rx change]
  rfl

/-! ## Rule R126: the first sample after a receive reset -/

/-- An attempt on fewer than 49 pulses does nothing (rule R142). -/
theorem decodeAttempt_of_short (c : Config) {ps : List Pulse} (short : ps.length < 49) :
    decodeAttempt c ps = (ps, none) := by
  obtain ⟨-, e⟩ | ⟨full, -⟩ | ⟨full, -⟩ := decodeAttempt_cases c ps
  · exact e
  · omega
  · omega

/-- Settles O25: a HIGH sample changes the level of the reset path, and its attempt sees one pulse only; a LOW one
makes a run of one, which no legal sample rate makes LONG. -/
theorem firstSampleAfterResetStartsARun : Obligations.FirstSampleAfterResetStartsARun := by
  intro s bi bq rest legal data reset
  cases level : classify (s8 bi) (s8 bq) with
  | high =>
    have attempt : decodeAttempt s.cfg [⟨.low, 0#32⟩] = ([⟨.low, 0#32⟩], none) :=
      decodeAttempt_of_short s.cfg (by decide)
    rw [levelChangeAppendsOnePulse s bi bq rest data (by simp [level, reset])]
    simp [level, reset, attempt]
  | low =>
    have short : ¬ 500 * (0#32 + 1#32).toNat > s.cfg.fs := by
      obtain ⟨low, -, -⟩ := (Config.legal_iff s.cfg).mp legal
      exact not_lt.mpr (le_trans (by decide) low)
    rw [sameLevelSampleExtendsTheRun s bi bq rest data (by simp [level, reset]), reset, if_neg short]
    rfl

end Sys2Proof.Machine
end

section
/-! SUPPORT. The frame decoder (`42_frame_decoder.md`): what a burst can report, the branches of a decode attempt, the
synchronisation search, the bit loop, and the obligations about them. -/

namespace Sys2Proof.Machine

/-! ## Rule R142: the length gate -/

/-- Settles O31: the length gate of `decodeAttempt_cases`. -/
theorem shortBufferAttemptIsNoOp : Obligations.ShortBufferAttemptIsNoOp :=
  fun c _ short => decodeAttempt_of_short c short

/-! ## Rules R152 and R248: the reports of a burst -/

/-- The records DEC emits (rules R147, R148). -/
def Event.IsDecoderReport (e : Event) : Prop := (∃ id cmd, e = .decoded id cmd) ∨ ∃ n, e = .inconclusive n

theorem decodeAttempt_reports (c : Config) (ps : List Pulse) : ∀ e ∈ (decodeAttempt c ps).2, e.IsDecoderReport := by
  intro e report
  obtain nothing | ⟨v, decoded⟩ | ⟨n, inconclusive⟩ := decodeAttempt_event c ps
  · rw [nothing] at report; cases report
  · rw [decoded] at report; cases report; exact .inl ⟨_, _, rfl⟩
  · rw [inconclusive] at report; cases report; exact .inr ⟨_, rfl⟩

/-- Only a level change reports, through its attempt (rule R121). -/
theorem sampleStep_reports (c : Config) (p : Sample) (r : RxPath) :
    ∀ e ∈ (sampleStep c p r).2, e.IsDecoderReport := by
  obtain ⟨-, -, e⟩ | ⟨-, -, e⟩ | ⟨-, e⟩ := sampleStep_cases c p r <;> rw [e]
  · rintro _ ⟨⟩
  · rintro _ ⟨⟩
  · exact decodeAttempt_reports c _

/-- A sample's step answers at most one report, so a list of samples gives at most as many as it has samples. -/
theorem receive_reports (c : Config) (ps : List Sample) (r : RxPath) :
    (receive c ps r).2.length ≤ ps.length ∧ ∀ e ∈ (receive c ps r).2, e.IsDecoderReport := by
  induction ps generalizing r with
  | nil => exact ⟨le_rfl, List.forall_mem_nil _⟩
  | cons p ps ih =>
    obtain ⟨most, kinds⟩ := ih (sampleStep c p r).1
    have first : (sampleStep c p r).2.toList.length ≤ 1 := by cases (sampleStep c p r).2 <;> simp
    rw [receive_cons, List.length_append, List.length_cons]
    refine ⟨by omega, List.forall_mem_append.mpr ⟨fun e report => ?_, kinds⟩⟩
    exact sampleStep_reports c p r e (Option.mem_toList.mp report)

/-- Settles O29: `receive_reports` on the `LEN/2` samples of the burst. -/
theorem burstReportsAtMostOncePerSample : Obligations.BurstReportsAtMostOncePerSample := by
  intro s len here even
  have count : (samplesOf (s.rxData.take len.toNat)).length = len.toNat / 2 := by
    rw [samplesOf_length, List.length_take_of_le here]
  obtain ⟨most, kinds⟩ := receive_reports s.cfg (samplesOf (s.rxData.take len.toNat)) s.rx
  refine ⟨_, (receive s.cfg (samplesOf (s.rxData.take len.toNat)) s.rx).2, exec_rxBurst_even here even, rfl, ?_,
    kinds⟩
  omega

/-! ## Rules R144 and R145: the synchronisation search -/

theorem synced_length_le (c : Config) (ps : List Pulse) :
    (findSync c (dropLeadingHigh ps)).length ≤ ps.length :=
  ((findSync_suffix c _).trans (dropLeadingHigh_suffix ps)).length_le

/-- The search left enough pulses for the bit loop. -/
theorem decodeAttempt_of_synced {c : Config} {ps : List Pulse}
    (enough : 49 ≤ (findSync c (dropLeadingHigh ps)).length) :
    decodeAttempt c ps = readBits c 24 0#24 (findSync c (dropLeadingHigh ps)) := by
  have le := synced_length_le c ps
  obtain ⟨short, -⟩ | ⟨-, short, -⟩ | ⟨-, -, e⟩ := decodeAttempt_cases c ps
  · omega
  · omega
  · exact e

/-- The search left too few (rule R145). -/
theorem decodeAttempt_of_unsynced {c : Config} {ps : List Pulse} (full : 49 ≤ ps.length)
    (few : (findSync c (dropLeadingHigh ps)).length < 49) :
    decodeAttempt c ps = (findSync c (dropLeadingHigh ps), none) := by
  obtain ⟨short, -⟩ | ⟨-, -, e⟩ | ⟨-, enough, -⟩ := decodeAttempt_cases c ps
  · omega
  · exact e
  · omega

theorem findSync_of_long {c : Config} {p : Pulse} (rest : List Pulse) (long : isLong c p.n.toNat = true) :
    findSync c (p :: rest) = p :: rest := by
  cases rest with
  | nil => rfl
  | cons q rest => rw [findSync_cons_cons, if_pos long]

theorem findSync_of_not_long {c : Config} {p : Pulse} (q : Pulse) (rest : List Pulse)
    (short : isLong c p.n.toNat = false) : findSync c (p :: q :: rest) = findSync c rest := by
  rw [findSync_cons_cons, short, if_neg Bool.false_ne_true]

theorem findSync_skips_pairs {c : Config} {noise : List (Pulse × Pulse)}
    (short : ∀ x ∈ noise, isLong c x.1.n.toNat = false) (ps : List Pulse) :
    findSync c (noise.flatMap (fun x => [x.1, x.2]) ++ ps) = findSync c ps := by
  induction noise with
  | nil => rfl
  | cons x noise ih =>
    obtain ⟨head, tail⟩ := List.forall_mem_cons.mp short
    exact (findSync_of_not_long x.2 _ head).trans (ih tail)

/-- Where no pulse is LONG the search drops every pair: it leaves the last of an odd number of pulses, and none of an
even number. -/
theorem findSync_of_none_long {c : Config} : ∀ {ps : List Pulse}, (∀ p ∈ ps, isLong c p.n.toNat = false) →
    findSync c ps = ps.drop (2 * (ps.length / 2))
  | [], _ => rfl
  | [_], _ => by simp [findSync]
  | p :: q :: rest, short => by
    obtain ⟨head, -, tail⟩ := by simpa only [List.forall_mem_cons] using short
    have pairs : 2 * ((p :: q :: rest).length / 2) = 2 * (rest.length / 2) + 2 := by
      simp only [List.length_cons]; omega
    rw [findSync_of_not_long q rest head, findSync_of_none_long tail, pairs]
    rfl

/-- An attempt on a buffer that begins with a sync LOW is the bit loop on the whole of it. -/
theorem decodeAttempt_of_sync {c : Config} {sync : Pulse} {ps : List Pulse} (low : sync.lvl = .low)
    (long : isLong c sync.n.toNat = true) (enough : 48 ≤ ps.length) :
    decodeAttempt c (sync :: ps) = readBits c 24 0#24 (sync :: ps) := by
  have synced : findSync c (dropLeadingHigh (sync :: ps)) = sync :: ps := by
    rw [dropLeadingHigh_of_low ps low, findSync_of_long ps long]
  rw [decodeAttempt_of_synced (by rw [synced]; exact Nat.succ_le_succ enough), synced]

/-- Step 2 drops an optional HIGH before a LOW, and nothing more. -/
theorem dropLeadingHigh_toList_append {lead : Option Pulse} {ps : List Pulse} (high : ∀ p ∈ lead, p.lvl = .high)
    (low : ∀ p ∈ ps.head?, p.lvl = .low) : dropLeadingHigh (lead.toList ++ ps) = ps := by
  cases lead with
  | some h => exact dropLeadingHigh_of_high ps (high h rfl)
  | none =>
    cases ps with
    | nil => rfl
    | cons p ps => exact dropLeadingHigh_of_low ps (low p rfl)

/-- Settles O34: step 2 takes the leading HIGH, the search the pairs, and what is left is the buffer of
`decodeAttempt_of_sync`. -/
theorem syncSearchSkipsNoise : Obligations.SyncSearchSkipsNoise := by
  intro c lead noise sync ps high pairs low long enough
  have beginsLow : ∀ p ∈ (noise.flatMap (fun x => [x.1, x.2]) ++ sync :: ps).head?, p.lvl = .low := by
    cases noise with
    | nil => rintro p ⟨⟩; exact low
    | cons x noise => rintro p ⟨⟩; exact (pairs x List.mem_cons_self).1
  have synced : findSync c (dropLeadingHigh (lead.toList ++ noise.flatMap (fun x => [x.1, x.2]) ++ sync :: ps)) =
      sync :: ps := by
    rw [List.append_assoc, dropLeadingHigh_toList_append high beginsLow,
      findSync_skips_pairs fun x mem => (pairs x mem).2, findSync_of_long ps long]
  rw [decodeAttempt_of_sync low long enough,
    decodeAttempt_of_synced (by rw [synced]; exact Nat.succ_le_succ enough), synced]

/-! ## Rules R150 and R153: full buffers -/

/-- Settles O35: after step 2 the search drops every pair, of 48 pulses behind a HIGH head and of 49 with a LOW
one. -/
theorem bufferWithoutSyncIsFlushed : Obligations.BufferWithoutSyncIsFlushed := by
  intro c p ps count short
  have full : 49 ≤ (p :: ps).length := by rw [List.length_cons, count]
  constructor
  · intro high
    have synced : findSync c (dropLeadingHigh (p :: ps)) = [] := by
      rw [dropLeadingHigh_of_high ps high, findSync_of_none_long short, count]
      exact List.drop_of_length_le count.le
    rw [decodeAttempt_of_unsynced full (by simp [synced]), synced]
  · intro low head
    have synced : findSync c (dropLeadingHigh (p :: ps)) = ps.drop 47 := by
      rw [dropLeadingHigh_of_low ps low, findSync_of_none_long (List.forall_mem_cons.mpr ⟨head, short⟩),
        List.length_cons, count]
      rfl
    rw [decodeAttempt_of_unsynced full (by simp [synced, count]), synced]

/-- Settles O36: an attempt drops pulses from the head only, and at least one of a full buffer. -/
theorem fullBufferAttemptShortens : Obligations.FullBufferAttemptShortens := fun c ps full => by
  obtain ⟨dropped, e⟩ := decodeAttempt_suffix c ps
  exact ⟨⟨dropped, e.symm⟩, decodeAttempt_length_lt c ps full⟩

/-! ## Rules R146 to R149: the bit loop -/

theorem bitOf_of_isOne {c : Config} {n : Nat} (one : isOne c n = true) : bitOf c n = some true := if_pos one

theorem bitOf_of_isZero {c : Config} {n : Nat} (zero : isZero c n = true) : bitOf c n = some false := by
  have notOne : ¬ isOne c n = true := fun one => not_isOne_and_isZero c n ⟨one, zero⟩
  rw [bitOf, if_neg notOne, if_pos zero]

theorem bitOf_of_neither {c : Config} {n : Nat} (notOne : isOne c n = false) (notZero : isZero c n = false) :
    bitOf c n = none := by
  rw [bitOf, notOne, notZero]
  rfl

theorem bitOf_of_band {c : Config} {n : Nat} {b : Bool} (band : if b then isOne c n = true else isZero c n = true) :
    bitOf c n = some b := by
  cases b with
  | true => exact bitOf_of_isOne band
  | false => exact bitOf_of_isZero (by simpa using band)

section ReadBits
variable {c : Config} {k : Nat} {w : BitVec 24} {ps : List Pulse} {p : Pulse} (second : ps[1]? = some p)
include second

/-- One turn of the loop whose HIGH stands for a bit. -/
theorem readBits_succ_of_bit {b : Bool} (bit : bitOf c p.n.toNat = some b) :
    readBits c (k + 1) w ps = readBits c k (w.shiftConcat b) (ps.drop 2) := by
  match ps, second with
  | l :: h :: rest, second =>
    cases second
    rw [readBits_succ, bit]
    rfl

/-- The turn that ends the loop: its HIGH fits neither band (rule R148). -/
theorem readBits_succ_of_nearMiss (miss : bitOf c p.n.toNat = none) :
    readBits c (k + 1) w ps = (ps.drop 2, some (inconclusiveEvent p.n)) := by
  match ps, second with
  | l :: h :: rest, second =>
    cases second
    rw [readBits_succ, miss]
    rfl

end ReadBits

/-- The word after the bits `f 0` to `f (k - 1)` (rule R147: the first one is the most significant). -/
def collectBits (f : Nat → Bool) (k : Nat) : BitVec 24 := (List.range k).foldl (fun w j => w.shiftConcat (f j)) 0#24

theorem collectBits_succ (f : Nat → Bool) (k : Nat) :
    collectBits f (k + 1) = (collectBits f k).shiftConcat (f k) := by
  rw [collectBits, List.range_succ, List.foldl_append]
  rfl

/-- The first `k` bits of `w` are the number above its other bits. -/
theorem collectBits_wordBit (w : BitVec 24) {k : Nat} (le : k ≤ 24) : collectBits (wordBit w) k = w >>> (24 - k) := by
  induction k with
  | zero => exact (BitVec.ushiftRight_eq_zero le_rfl).symm
  | succ k ih =>
    rw [collectBits_succ, ih (by omega), wordBit, show 23 - k = 24 - k - 1 by omega,
      ← BitVec.shiftRight_sub_one_eq_shiftConcat w (by omega)]
    rfl

/-- The turns of the loop whose HIGHs stand for bits, and the turns still to go. -/
theorem readBits_add_of_bits {c : Config} {ps : List Pulse} {f : Nat → Bool} {k : Nat}
    (bits : ∀ j < k, ∃ p, ps[2 * j + 1]? = some p ∧ bitOf c p.n.toNat = some (f j)) (m : Nat) :
    readBits c (k + m) 0#24 ps = readBits c m (collectBits f k) (ps.drop (2 * k)) := by
  induction k generalizing m with
  | zero => rw [Nat.zero_add]; rfl
  | succ k ih =>
    obtain ⟨p, at_p, bit⟩ := bits k (Nat.lt_succ_self k)
    have second : (ps.drop (2 * k))[1]? = some p := by rw [List.getElem?_drop, at_p]
    rw [Nat.add_right_comm k 1 m, Nat.add_assoc, ih (fun j lt => bits j (Nat.lt_succ_of_lt lt)),
      readBits_succ_of_bit second bit, collectBits_succ, List.drop_drop]
    rfl

/-- Settles O32: the loop runs to its end, on the bits of `w` from the most significant one on
(`collectBits_wordBit`). -/
theorem completeFrameDecodes : Obligations.CompleteFrameDecodes := by
  rintro c (_ | ⟨sync, ps⟩) _ w count ⟨⟩ low long bits
  rw [List.length_cons] at count
  have bits' : ∀ j < 24, ∃ p, (sync :: ps)[2 * j + 1]? = some p ∧ bitOf c p.n.toNat = some (wordBit w j) := by
    intro j lt
    obtain ⟨p, at_p, band⟩ := bits j lt
    exact ⟨p, at_p, bitOf_of_band band⟩
  rw [decodeAttempt_of_sync low long (by omega), readBits_add_of_bits bits' 0, collectBits_wordBit w le_rfl]
  rfl

/-- Settles O33: the loop reads the bits before the near miss (`readBits_add_of_bits`), and there it ends. -/
theorem nearMissIsInconclusive : Obligations.NearMissIsInconclusive := by
  rintro c (_ | ⟨sync, ps⟩) _ p k count ⟨⟩ low long inside bits at_p notOne notZero bound
  rw [List.length_cons] at count
  have read : ∀ j < k, ∃ b q, (sync :: ps)[2 * j + 1]? = some q ∧ bitOf c q.n.toNat = some b := by
    intro j lt
    obtain ⟨q, at_q, one | zero⟩ := bits j lt
    · exact ⟨true, q, at_q, bitOf_of_isOne one⟩
    · exact ⟨false, q, at_q, bitOf_of_isZero zero⟩
  choose! f bits' using read
  have second : ((sync :: ps).drop (2 * k))[1]? = some p := by rw [List.getElem?_drop, at_p]
  refine ⟨p.n.setWidth 28, ?_, ?_⟩
  · rw [BitVec.toNat_setWidth, Nat.mod_eq_of_lt bound]
  · have turns := readBits_add_of_bits bits' (23 - k + 1)
    rw [show k + (23 - k + 1) = 24 by omega] at turns
    rw [decodeAttempt_of_sync low long (by omega), turns,
      readBits_succ_of_nearMiss second (bitOf_of_neither notOne notZero), List.drop_drop]
    rfl

end Sys2Proof.Machine
end

section
/-! SUPPORT. A frame as the receiver sees it (`43_frame_encoder.md` rules R171, R172 and R175; `42_frame_decoder.md`
rule R154): its bytes as the runs of its schedule, the pulses these leave, and the obligations about a lone frame and
about copies back to back. -/

namespace Sys2Proof.Machine

/-! ## Rules R171 and R172: the frame is its schedule, rendered -/

/-- A range cut into `n` parts of length `m`. -/
theorem map_range_mul {α : Type} (f : Nat → α) (n m : Nat) :
    (List.range (n * m)).map f = (List.range n).flatMap fun k => (List.range m).map fun i => f (k * m + i) := by
  induction n with
  | zero => rw [Nat.zero_mul]; rfl
  | succ n ih =>
    rw [Nat.succ_mul, List.range_add, List.map_append, ih, List.range_succ, List.flatMap_append, List.map_map]
    simp [Function.comp_def]

/-- The levels of a span, one per unit interval. -/
def Span.levels (s : Span) : List Level := List.replicate s.intervals s.lvl

theorem intervalLevel_of_bit (w : BitVec 24) (k i : Nat) (lt : i < 4) :
    intervalLevel w (14 + (k * 4 + i)) =
      if wordBit w k then (if i = 0 then .high else .low) else (if i ≤ 2 then .high else .low) := by
  have bit : (14 + (k * 4 + i) - 14) / 4 = k := by omega
  have phase : (14 + (k * 4 + i) - 14) % 4 = i := by omega
  simp only [intervalLevel, wordBit, bit, phase]
  rw [if_neg (by omega), if_neg (by omega)]
  rfl

theorem map_intervalLevel_bit (w : BitVec 24) (k : Nat) :
    (List.range 4).map (fun i => intervalLevel w (14 + (k * 4 + i))) =
      (bitSpans (wordBit w k)).flatMap Span.levels := by
  have levels : (List.range 4).map (fun i => intervalLevel w (14 + (k * 4 + i))) =
      (List.range 4).map fun i =>
        if wordBit w k then (if i = 0 then .high else .low) else (if i ≤ 2 then .high else .low) :=
    List.map_congr_left fun i mem => intervalLevel_of_bit w k i (List.mem_range.mp mem)
  rw [levels]
  cases wordBit w k <;> rfl

/-- The spans of the 24 bits, the most significant first. -/
def dataSpans (w : BitVec 24) : List Span := (List.range 24).flatMap fun k => bitSpans (wordBit w k)

theorem schedule_eq (w : BitVec 24) : schedule w = ⟨.high, 1⟩ :: ⟨.low, 13⟩ :: dataSpans w := rfl

/-- The closed form of rule R172 gives the levels of the schedule of rule R171, unit interval by unit interval. -/
theorem map_intervalLevel (w : BitVec 24) :
    (List.range 110).map (intervalLevel w) = (schedule w).flatMap Span.levels := by
  have cut : List.range 110 = List.range 14 ++ (List.range (24 * 4)).map (14 + ·) := List.range_add (n := 14) (m := 96)
  have first : (List.range 14).map (intervalLevel w) = Span.levels ⟨.high, 1⟩ ++ Span.levels ⟨.low, 13⟩ := rfl
  rw [cut, List.map_append, List.map_map, map_range_mul, first, schedule_eq, List.flatMap_cons, List.flatMap_cons,
    List.append_assoc, dataSpans, List.flatMap_assoc]
  simp only [Function.comp_apply, map_intervalLevel_bit]

/-- The bytes of one unit interval. -/
def intervalBytes (c : Config) (l : Level) : List Byte := List.replicate (2 * ival c) (levelByte l)

theorem flatMap_intervalBytes_levels (c : Config) (s : Span) :
    s.levels.flatMap (intervalBytes c) = List.replicate (2 * (s.intervals * ival c)) (levelByte s.lvl) := by
  rw [Span.levels, List.flatMap_replicate, intervalBytes, List.flatten_replicate_replicate, Nat.mul_left_comm]

theorem renderSchedule_eq (c : Config) (spans : List Span) :
    renderSchedule c spans = (spans.flatMap Span.levels).flatMap (intervalBytes c) := by
  rw [List.flatMap_assoc]
  simp only [flatMap_intervalBytes_levels, renderSchedule]

/-- Both forms give each unit interval's level in `2*IVAL` bytes, and the levels agree (`map_intervalLevel`). -/
theorem frame_eq_renderSchedule (c : Config) (cv : BitVec 4) :
    frame c cv = renderSchedule c (schedule (frameWord c cv)) := by
  have length : frameLen c = 110 * (2 * ival c) := by rw [frameLen_eq]; omega
  have interval : ∀ t, (List.range (2 * ival c)).map (fun i => frameByte c cv (0 + (t * (2 * ival c) + i))) =
      intervalBytes c (intervalLevel (frameWord c cv) t) := by
    intro t
    refine List.eq_replicate_iff.mpr ⟨by simp, List.forall_mem_map.mpr fun i mem => ?_⟩
    have inside := List.mem_range.mp mem
    rw [frameByte, Nat.div_div_eq_div_mul, Nat.zero_add, Nat.mul_comm t,
      Nat.mul_add_div (by omega), Nat.div_eq_of_lt inside, Nat.add_zero]
  rw [renderSchedule_eq, ← map_intervalLevel, List.flatMap_map, frame, frameSlice, length, map_range_mul]
  simp only [interval]

/-! ## Rules R52 and R70: the samples of a rendered schedule -/

/-- The sample the transmitter sends for a level. -/
def levelSample (l : Level) : Sample := ⟨s8 (levelByte l), s8 (levelByte l)⟩

@[simp] theorem levelSample_level (l : Level) : (levelSample l).level = l := by cases l <;> rfl

theorem level_of_mem_replicate {l : Level} {n : Nat} : ∀ p ∈ List.replicate n (levelSample l), p.level = l :=
  fun p mem => by rw [List.eq_of_mem_replicate mem, levelSample_level]

theorem samplesOf_replicate (l : Level) (n : Nat) :
    samplesOf (List.replicate (2 * n) (levelByte l)) = List.replicate n (levelSample l) := by
  induction n with
  | zero => rfl
  | succ n ih =>
    rw [Nat.mul_succ, List.replicate_succ, List.replicate_succ, samplesOf_pair, ih, List.replicate_succ, levelSample]

theorem samplesOf_levelSamples (l : Level) (n : Nat) :
    samplesOf (levelSamples l n) = List.replicate n (levelSample l) := by
  have bytes : levelSamples l n = List.replicate (2 * n) (levelByte l) := by
    rw [Nat.mul_comm]
    exact List.flatten_replicate_replicate (n := n) (m := 2)
  rw [bytes, samplesOf_replicate]

/-- The samples of one span. -/
def Span.samples (c : Config) (s : Span) : List Sample := List.replicate (s.intervals * ival c) (levelSample s.lvl)

theorem samplesOf_renderSchedule (c : Config) (spans : List Span) :
    samplesOf (renderSchedule c spans) = spans.flatMap (Span.samples c) := by
  induction spans with
  | nil => rfl
  | cons s spans ih =>
    rw [renderSchedule, List.flatMap_cons, samplesOf_append _ _ (by simp), samplesOf_replicate]
    exact congrArg _ ih

theorem samplesOf_take : ∀ (n : Nat) (bytes : List Byte), samplesOf (bytes.take (2 * n)) = (samplesOf bytes).take n
  | 0, _ => rfl
  | _ + 1, [] => rfl
  | _ + 1, [_] => rfl
  | n + 1, bi :: bq :: rest => by
    rw [Nat.mul_succ, List.take_succ_cons, List.take_succ_cons, samplesOf_pair, samplesOf_pair, List.take_succ_cons,
      samplesOf_take n rest]

/-- The first `IVAL + 1` samples of a frame: its first HIGH run, and the LOW sample that ends it. -/
def frameHead (c : Config) : List Sample := List.replicate (ival c) (levelSample .high) ++ [levelSample .low]

/-- The samples of a frame's preamble: one unit interval HIGH and 13 LOW (rule R171). -/
def preambleSamples (c : Config) : List Sample := frameHead c ++ List.replicate (13 * ival c - 1) (levelSample .low)

theorem preambleSamples_eq {c : Config} (legal : c.legal = true) :
    preambleSamples c = Span.samples c ⟨.high, 1⟩ ++ Span.samples c ⟨.low, 13⟩ := by
  have positive := ival_pos legal
  rw [preambleSamples, frameHead, List.append_assoc, List.singleton_append, ← List.replicate_succ,
    Nat.sub_add_cancel (by omega), Span.samples, Span.samples, Nat.one_mul]

theorem samplesOf_frame {c : Config} (legal : c.legal = true) (cv : BitVec 4) :
    samplesOf (frame c cv) = preambleSamples c ++ (dataSpans (frameWord c cv)).flatMap (Span.samples c) := by
  rw [frame_eq_renderSchedule, samplesOf_renderSchedule, schedule_eq, List.flatMap_cons, List.flatMap_cons,
    preambleSamples_eq legal, List.append_assoc]

theorem samplesOf_take_frame {c : Config} (legal : c.legal = true) (cv : BitVec 4) :
    samplesOf ((frame c cv).take (2 * (ival c + 1))) = frameHead c := by
  rw [samplesOf_take, samplesOf_frame legal, preambleSamples, List.append_assoc]
  exact List.take_left' (by simp [frameHead])

theorem frame_length_even (c : Config) (v : BitVec 4) : (frame c v).length % 2 = 0 := by
  rw [frame_length, frameLen_eq]
  omega

/-! ## Rules R121 and R122: the runs of the receive path -/

theorem receive_append_fst (c : Config) (ps qs : List Sample) (r : RxPath) :
    (receive c (ps ++ qs) r).1 = (receive c qs (receive c ps r).1).1 := by rw [receive_append]

theorem receive_append_snd (c : Config) (ps qs : List Sample) (r : RxPath) :
    (receive c (ps ++ qs) r).2 = (receive c ps r).2 ++ (receive c qs (receive c ps r).1).2 := by rw [receive_append]

/-- The finished runs and the current one. -/
def RxPath.runs (r : RxPath) : List Pulse := r.pbuf ++ [⟨r.last, r.run⟩]

theorem RxPath.getLast?_runs (r : RxPath) : r.runs.getLast? = some ⟨r.last, r.run⟩ := List.getLast?_concat

theorem extendRun_last (c : Config) (r : RxPath) : (extendRun c r).last = r.last := by
  rw [extendRun_eq]
  split <;> rfl

theorem sampleStep_last (c : Config) (p : Sample) (r : RxPath) : (sampleStep c p r).1.last = p.level := by
  by_cases same : p.level = r.last
  · rw [sampleStep_same c p r same, extendRun_last, same]
  · rw [sampleStep_change c p r same]; rfl

/-- Only a level change reports (rule R122). -/
theorem receive_sameLevel (c : Config) {ps : List Sample} {r : RxPath} (same : ∀ p ∈ ps, p.level = r.last) :
    (receive c ps r).2 = [] ∧ (receive c ps r).1.last = r.last := by
  induction ps generalizing r with
  | nil => exact ⟨rfl, rfl⟩
  | cons p ps ih =>
    obtain ⟨first, rest⟩ := List.forall_mem_cons.mp same
    have last := extendRun_last c r
    obtain ⟨silent, level⟩ := ih (r := extendRun c r) fun q mem => (rest q mem).trans last.symm
    rw [receive_cons, sampleStep_same c p r first]
    exact ⟨silent, level.trans last⟩

theorem receive_replicate_last (c : Config) {n : Nat} (positive : 0 < n) (l : Level) (r : RxPath) :
    (receive c (List.replicate n (levelSample l)) r).1.last = l := by
  obtain ⟨m, rfl⟩ : ∃ m, n = m + 1 := ⟨n - 1, by omega⟩
  have first : (sampleStep c (levelSample l) r).1.last = l := by rw [sampleStep_last, levelSample_level]
  rw [List.replicate_succ, receive_cons]
  exact (receive_sameLevel c fun q mem => (level_of_mem_replicate q mem).trans first.symm).2.trans first

/-- The LOW sample after a frame's first HIGH run begins a run, whatever was received before. -/
theorem receive_frameHead_fst {c : Config} (legal : c.legal = true) (r : RxPath) :
    ∃ pbuf, (receive c (frameHead c) r).1 = ⟨.low, 1#32, pbuf⟩ := by
  have change : (levelSample .low).level ≠ (receive c (List.replicate (ival c) (levelSample .high)) r).1.last := by
    rw [receive_replicate_last c (ival_pos legal), levelSample_level]
    decide
  rw [frameHead, receive_append_fst, receive_cons, sampleStep_change c _ _ change, levelSample_level]
  exact ⟨_, rfl⟩

section NewRun
variable {c : Config} (legal : c.legal = true) {l : Level} {n : Nat} {r : RxPath} (change : r.last ≠ l)
  (positive : 0 < n)
include legal change positive

/-- A run of the other level, not longer than 2 ms: the attempt of its first sample, and its length. -/
theorem receive_newRun_short (short : n < nClamp c) :
    receive c (List.replicate n (levelSample l)) r =
      (⟨l, BitVec.ofNat 32 n, (decodeAttempt c r.runs).1⟩, (decodeAttempt c r.runs).2.toList) := by
  obtain ⟨m, rfl⟩ : ∃ m, n = m + 1 := ⟨n - 1, by omega⟩
  have step : sampleStep c (levelSample l) r =
      (⟨l, 1#32, (decodeAttempt c r.runs).1⟩, (decodeAttempt c r.runs).2) := by
    rw [sampleStep_change _ _ _ (by rw [levelSample_level]; exact change.symm), levelSample_level]
    rfl
  have length : (1#32).toNat + (List.replicate m (levelSample l)).length = m + 1 := by
    rw [List.length_replicate, Nat.add_comm]; rfl
  rw [List.replicate_succ, receive_cons, step, receive_run_short c legal _ ⟨l, _, _⟩ level_of_mem_replicate
    (by rw [length]; exact short), length, List.append_nil]

/-- Such a run on a buffer that its pulse does not fill: the finished run is kept. -/
theorem receive_newRun_buffered (short : n < nClamp c) (room : r.runs.length < 49) :
    receive c (List.replicate n (levelSample l)) r = (⟨l, BitVec.ofNat 32 n, r.runs⟩, []) := by
  rw [receive_newRun_short legal change positive short, decodeAttempt_of_short c room]
  rfl

end NewRun

/-- The run a span leaves. -/
def Span.pulse (c : Config) (s : Span) : Pulse := ⟨s.lvl, BitVec.ofNat 32 (s.intervals * ival c)⟩

theorem Span.pulse_toNat {c : Config} (legal : c.legal = true) {s : Span} (short : s.intervals * ival c < nClamp c) :
    (s.pulse c).n.toNat = s.intervals * ival c := by
  have bound := nClamp_lt c legal
  rw [Span.pulse, BitVec.toNat_ofNat]
  omega

/-- Spans of alternating levels, none longer than 2 ms, each leave one run while the buffer is not full, and nothing is
reported. -/
theorem receive_spans {c : Config} (legal : c.legal = true) {spans : List Span} {r : RxPath}
    (alternate : (r.last :: spans.map Span.lvl).IsChain (· ≠ ·))
    (short : ∀ s ∈ spans, 0 < s.intervals * ival c ∧ s.intervals * ival c < nClamp c)
    (room : r.runs.length + spans.length ≤ 49) :
    (receive c (spans.flatMap (Span.samples c)) r).1.runs = r.runs ++ spans.map (Span.pulse c) ∧
      (receive c (spans.flatMap (Span.samples c)) r).2 = [] := by
  induction spans generalizing r with
  | nil => exact ⟨(List.append_nil _).symm, rfl⟩
  | cons s spans ih =>
    obtain ⟨change, alternate⟩ := List.isChain_cons_cons.mp alternate
    obtain ⟨⟨positive, notLong⟩, short⟩ := List.forall_mem_cons.mp short
    rw [List.length_cons] at room
    have first : receive c (s.samples c) r = (⟨s.lvl, BitVec.ofNat 32 (s.intervals * ival c), r.runs⟩, []) :=
      receive_newRun_buffered legal change positive notLong (by omega)
    obtain ⟨runs, silent⟩ :=
      ih (r := ⟨s.lvl, BitVec.ofNat 32 (s.intervals * ival c), r.runs⟩) alternate short
        (by simp only [RxPath.runs, List.length_append, List.length_singleton] at room ⊢; omega)
    rw [List.flatMap_cons, receive_append, first]
    refine ⟨?_, silent⟩
    rw [runs, List.map_cons, RxPath.runs, List.append_assoc]
    rfl

/-! ## The data spans -/

theorem bitSpans_eq (b : Bool) : bitSpans b = [⟨.high, if b then 1 else 3⟩, ⟨.low, if b then 3 else 1⟩] := by
  cases b <;> rfl

theorem flatMap_pair_length {α : Type} (f g : Nat → α) (n : Nat) :
    ((List.range n).flatMap fun k => [f k, g k]).length = 2 * n := by
  simp [List.length_flatMap, Nat.mul_comm]

theorem flatMap_pair_getElem? {α : Type} (f g : Nat → α) {n j : Nat} (lt : j < n) :
    ((List.range n).flatMap fun k => [f k, g k])[2 * j]? = some (f j) := by
  induction n with
  | zero => omega
  | succ n ih =>
    rw [List.range_succ, List.flatMap_append]
    obtain below | rfl := Nat.lt_succ_iff_lt_or_eq.mp lt
    · rw [List.getElem?_append_left (by rw [flatMap_pair_length]; omega), ih below]
    · rw [List.getElem?_append_right (by rw [flatMap_pair_length]), flatMap_pair_length, Nat.sub_self]
      rfl

theorem dataSpans_eq (w : BitVec 24) :
    dataSpans w = (List.range 24).flatMap fun k =>
      [⟨.high, if wordBit w k then 1 else 3⟩, ⟨.low, if wordBit w k then 3 else 1⟩] := by
  simp only [dataSpans, bitSpans_eq]

theorem dataSpans_length (w : BitVec 24) : (dataSpans w).length = 48 := by
  rw [dataSpans_eq, flatMap_pair_length]

theorem dataSpans_getElem? (w : BitVec 24) {j : Nat} (lt : j < 24) :
    (dataSpans w)[2 * j]? = some ⟨.high, if wordBit w j then 1 else 3⟩ := by
  rw [dataSpans_eq, flatMap_pair_getElem? _ _ lt]

theorem dataSpans_getLast? (w : BitVec 24) :
    (dataSpans w).getLast? = some ⟨.low, if wordBit w 23 then 3 else 1⟩ := by
  rw [dataSpans_eq, List.range_succ, List.flatMap_append, List.getLast?_append]
  rfl

/-- From a LOW on, the levels of the bits alternate: each is a HIGH and then a LOW. -/
theorem bitSpans_alternate (bits : List Bool) :
    (Level.low :: (bits.flatMap bitSpans).map Span.lvl).IsChain (· ≠ ·) := by
  induction bits with
  | nil => exact List.isChain_singleton _
  | cons b bits ih =>
    have differ : Level.low ≠ .high := by decide
    rw [List.flatMap_cons, bitSpans_eq]
    exact List.isChain_cons_cons.mpr ⟨differ, List.isChain_cons_cons.mpr ⟨differ.symm, ih⟩⟩

theorem dataSpans_alternate (w : BitVec 24) : (Level.low :: (dataSpans w).map Span.lvl).IsChain (· ≠ ·) := by
  have bits : dataSpans w = ((List.range 24).map (wordBit w)).flatMap bitSpans := by
    rw [List.flatMap_map, dataSpans]
  rw [bits]
  exact bitSpans_alternate _

theorem dataSpans_intervals {w : BitVec 24} {s : Span} (mem : s ∈ dataSpans w) :
    s.intervals = 1 ∨ s.intervals = 3 := by
  have bit : ∀ b, ∀ s ∈ bitSpans b, s.intervals = 1 ∨ s.intervals = 3 := by decide
  obtain ⟨k, -, mem⟩ := List.mem_flatMap.mp mem
  exact bit _ s mem

/-! ## Rules R73 and R175: the runs a frame leaves -/

/-- The runs a frame with the word `w` leaves: the sync, clamped, and the 48 runs of its bits. -/
def frameRuns (c : Config) (w : BitVec 24) : List Pulse :=
  ⟨.low, BitVec.ofNat 32 (nClamp c)⟩ :: (dataSpans w).map (Span.pulse c)

theorem frameRuns_length (c : Config) (w : BitVec 24) : (frameRuns c w).length = 49 := by
  rw [frameRuns, List.length_cons, List.length_map, dataSpans_length]

theorem frameWord_wordBit_last (c : Config) (v : BitVec 4) : wordBit (frameWord c v) 23 = v.getLsbD 0 :=
  BitVec.getLsbD_append

/-- The last run is LOW, of the length rule R176 calls `r`. -/
theorem frameRuns_getLast? (c : Config) (v : BitVec 4) :
    (frameRuns c (frameWord c v)).getLast? = some ⟨.low, BitVec.ofNat 32 (lastLowRun c v)⟩ := by
  have length : lastLowRun c v = (if v.getLsbD 0 then 3 else 1) * ival c := by
    unfold lastLowRun
    split
    · rfl
    · rw [Nat.one_mul]
  rw [frameRuns, List.getLast?_cons, List.getLast?_map, dataSpans_getLast?, frameWord_wordBit_last, length]
  rfl

/-- `DECODED` of a transmitted frame names its identifier and its command (rules R147, R170). -/
theorem decodedEvent_frameWord (c : Config) (v : BitVec 4) :
    decodedEvent (frameWord c v) = .decoded c.deviceId v := by
  have identifier : (frameWord c v).extractLsb' 4 20 = c.deviceId := by
    rw [frameWord, extractLsb'_eq_iff, toNat_append_eq_add]
    omega
  have command : (frameWord c v).extractLsb' 0 4 = v := by
    rw [frameWord, extractLsb'_eq_iff, toNat_append_eq_add]
    omega
  rw [decodedEvent, identifier, command]

section Frame
variable {c : Config} (legal : c.legal = true) (fast : 23438 ≤ c.fs)
include legal fast

/-- `N_CLAMP` lies between 3 and 13 unit intervals. -/
theorem nClamp_between : 3 * ival c < nClamp c ∧ nClamp c ≤ 13 * ival c := by
  obtain ⟨-, -, long, short⟩ := encoderTimingFitsTheDecoder.1 c legal fast
  rw [isLong_eq, decide_eq_true_iff] at long
  rw [isLong_eq, decide_eq_false_iff_not] at short
  exact ⟨not_le.mp short, long⟩

/-- The preamble, from any receive state: its LOW run is LONG, so nothing of what was there before is left, and its
reports are those of the frame's first `IVAL + 1` samples. -/
theorem receive_preamble (r : RxPath) :
    (receive c (preambleSamples c) r).1 = ⟨.low, BitVec.ofNat 32 (nClamp c), []⟩ ∧
      (receive c (preambleSamples c) r).2 = (receive c (frameHead c) r).2 := by
  obtain ⟨-, long⟩ := nClamp_between legal fast
  obtain ⟨low, -⟩ := nClamp_lt c legal
  obtain ⟨pbuf, head⟩ := receive_frameHead_fst legal r
  have first : (1#32).toNat = 1 := rfl
  have rest := receive_run_long c legal (List.replicate (13 * ival c - 1) (levelSample .low)) ⟨.low, 1#32, pbuf⟩
    level_of_mem_replicate (by simp only [first]; omega) (fun clamped => by simp only [first] at clamped; omega)
    (by rw [List.length_replicate]; simp only [first]; omega)
  rw [preambleSamples, receive_append_fst, receive_append_snd, head, rest, List.append_nil]
  exact ⟨rfl, rfl⟩

/-- `FRAME(v)`, from any receive state. -/
theorem receive_frame (v : BitVec 4) (r : RxPath) :
    (receive c (samplesOf (frame c v)) r).1.runs = frameRuns c (frameWord c v) ∧
      (receive c (samplesOf (frame c v)) r).2 = (receive c (frameHead c) r).2 := by
  obtain ⟨notLong, -⟩ := nClamp_between legal fast
  have positive := ival_pos legal
  have short : ∀ s ∈ dataSpans (frameWord c v), 0 < s.intervals * ival c ∧ s.intervals * ival c < nClamp c := by
    intro s mem
    obtain one | three := dataSpans_intervals mem
    · rw [one]; omega
    · rw [three]; omega
  obtain ⟨runs, silent⟩ :=
    receive_spans legal (r := ⟨.low, BitVec.ofNat 32 (nClamp c), []⟩) (dataSpans_alternate (frameWord c v)) short
      (by rw [dataSpans_length]; exact le_rfl)
  obtain ⟨preamble, reports⟩ := receive_preamble legal fast r
  rw [samplesOf_frame legal, receive_append_fst, receive_append_snd, preamble, reports, silent, List.append_nil]
  exact ⟨runs, rfl⟩

/-- The attempt on a frame's runs decodes it: the encoder's timing is inside the decoder's bands (rule R73). -/
theorem decodeAttempt_frameRuns (v : BitVec 4) :
    decodeAttempt c (frameRuns c (frameWord c v)) =
      ((frameRuns c (frameWord c v)).drop 48, some (.decoded c.deviceId v)) := by
  obtain ⟨one, zero, -, -⟩ := encoderTimingFitsTheDecoder.1 c legal fast
  have short := nClamp_between legal fast
  have sync : isLong c (BitVec.ofNat 32 (nClamp c)).toNat = true := by
    rw [toNat_ofNat_nClamp legal, isLong_eq, decide_eq_true_iff]
  rw [← decodedEvent_frameWord]
  refine completeFrameDecodes c _ _ _ (frameRuns_length c _) rfl rfl sync fun j lt =>
    ⟨Span.pulse c ⟨.high, if wordBit (frameWord c v) j then 1 else 3⟩, ?_, ?_⟩
  · rw [frameRuns, List.getElem?_cons_succ, List.getElem?_map, dataSpans_getElem? _ lt]
    rfl
  · cases wordBit (frameWord c v) j with
    | true =>
      rw [if_pos rfl, if_pos rfl, Span.pulse_toNat legal (by simp only; omega), Nat.one_mul]
      exact one
    | false =>
      rw [if_neg Bool.false_ne_true, if_neg Bool.false_ne_true, Span.pulse_toNat legal (by simp only; omega)]
      exact zero

/-! ## Rules R154, R176 and R279: a lone frame, and copies back to back -/

/-- The last run is not LONG where the frame ends. -/
theorem lastLowRun_lt (v : BitVec 4) : lastLowRun c v < nClamp c := by
  have short := nClamp_between legal fast
  unfold lastLowRun
  split <;> omega

/-- The last run of a frame is still going on where the frame ends. -/
theorem last_run_of_runs_eq {r : RxPath} {v : BitVec 4} (runs : r.runs = frameRuns c (frameWord c v)) :
    r.last = .low ∧ r.run.toNat = lastLowRun c v := by
  have short := lastLowRun_lt legal fast v
  have bound := nClamp_lt c legal
  have current := r.getLast?_runs
  rw [runs, frameRuns_getLast?, Option.some.injEq, Pulse.mk.injEq] at current
  obtain ⟨level, run⟩ := current
  refine ⟨level.symm, ?_⟩
  rw [← run, BitVec.toNat_ofNat]
  omega

/-- A frame's first samples after a LOW: the attempt on what was received before is the only one to report, where it
leaves a buffer that the frame's first HIGH does not fill. -/
theorem receive_frameHead_snd {r : RxPath} (low : r.last = .low) (room : (decodeAttempt c r.runs).1.length < 48) :
    (receive c (frameHead c) r).2 = (decodeAttempt c r.runs).2.toList := by
  have short := nClamp_between legal fast
  have positive := ival_pos legal
  have high := receive_newRun_short legal (r := r) (l := .high) (by rw [low]; decide) positive (by omega)
  have second : receive c [levelSample .low]
      ⟨.high, BitVec.ofNat 32 (ival c), (decodeAttempt c r.runs).1⟩ = (_, []) :=
    receive_newRun_buffered legal (l := .low) (n := 1) (by simp) Nat.one_pos (by omega)
      (by rw [RxPath.runs, List.length_append]; exact Nat.succ_lt_succ room)
  rw [frameHead, receive_append_snd, high, second, List.append_nil]

/-- Copies of a frame that follow one: the first sample of each decodes the copy before it. -/
theorem receive_copies (v : BitVec 4) (n : Nat) {r : RxPath} (runs : r.runs = frameRuns c (frameWord c v)) :
    (receive c (samplesOf (List.replicate n (frame c v)).flatten) r).2 =
      List.replicate n (.decoded c.deviceId v) := by
  induction n generalizing r with
  | zero => rfl
  | succ n ih =>
    obtain ⟨low, -⟩ := last_run_of_runs_eq legal fast runs
    have attempt := decodeAttempt_frameRuns legal fast v
    have head : (receive c (frameHead c) r).2 = [.decoded c.deviceId v] := by
      rw [receive_frameHead_snd legal fast low (by rw [runs, attempt, List.length_drop, frameRuns_length]; decide), runs,
        attempt]
      rfl
    obtain ⟨runs', reports⟩ := receive_frame legal fast v r
    rw [List.replicate_succ, List.flatten_cons, samplesOf_append _ _ (frame_length_even c v), receive_append_snd,
      reports,
      head, ih runs']
    rfl

end Frame

/-- Settles O51: the silence goes on with the frame's last LOW run. Samples of one level never report
(`receive_sameLevel`), and once the run is LONG the buffer is empty (`receive_run_long`). -/
theorem loneFrameIsNeverDecoded : Obligations.LoneFrameIsNeverDecoded := by
  intro c v r z legal fast
  obtain ⟨runs, reports⟩ := receive_frame legal fast v r
  obtain ⟨low, run⟩ := last_run_of_runs_eq legal fast runs
  have short := lastLowRun_lt legal fast v
  have same : ∀ p ∈ List.replicate z (levelSample .low),
      p.level = (receive c (samplesOf (frame c v)) r).1.last := by
    rw [low]
    exact level_of_mem_replicate
  rw [samplesOf_append _ _ (frame_length_even c v), samplesOf_levelSamples, samplesOf_take_frame legal,
    receive_append_fst, receive_append_snd]
  refine ⟨?_, fun long => ?_⟩
  · rw [(receive_sameLevel c same).1, reports, List.append_nil]
  · rw [receive_run_long c legal _ _ same (by omega) (fun clamped => by omega)
      (by rw [run, List.length_replicate]; exact long), low]

/-- Settles O52: after a reset the first copy reports nothing, and each further one decodes the copy before it
(`receive_copies`). -/
theorem backToBackCopiesDecodeAllButOne : Obligations.BackToBackCopiesDecodeAllButOne := by
  intro c v n legal fast
  have attempt : decodeAttempt c RxPath.reset.runs = (RxPath.reset.runs, none) := decodeAttempt_of_short c (by decide)
  have head : (receive c (frameHead c) .reset).2 = [] := by
    rw [receive_frameHead_snd legal fast rfl (by rw [attempt]; decide), attempt]
    rfl
  obtain ⟨runs, reports⟩ := receive_frame legal fast v .reset
  rw [List.replicate_succ, List.flatten_cons, samplesOf_append _ _ (frame_length_even c v), receive_append_snd,
      reports,
    head, receive_copies legal fast v n runs, List.nil_append]

end Sys2Proof.Machine
end

section
/-! SUPPORT. The frame encoder (`43_frame_encoder.md`): the frame word's fields, the construction check, the rendering
of the schedule, and the obligations about them, with the one about a transmitted frame (rule R176). -/

namespace Sys2Proof.Machine

/-! ## Rule R170: the frame word -/

/-- Settles O39: `DECODED` of a frame word names both fields (`decodedEvent_frameWord`). -/
theorem frameWordHoldsIdentifierAndCommand : Obligations.FrameWordHoldsIdentifierAndCommand := by
  intro c cv
  obtain ⟨identifier, command⟩ := Event.decoded.inj (decodedEvent_frameWord c cv)
  exact ⟨identifier, command, toNat_append_eq_add c.deviceId cv⟩

/-! ## Rules R173 and R174: the construction check -/

theorem schedule_length (w : BitVec 24) : (schedule w).length = 50 := by
  rw [schedule_eq, List.length_cons, List.length_cons, dataSpans_length]

/-- The preamble has 14 unit intervals and each of the 24 bits has four. -/
theorem schedule_intervals (w : BitVec 24) : ((schedule w).map Span.intervals).sum = 110 := by
  have bits : ((dataSpans w).map Span.intervals).sum = 24 * 4 := by
    rw [dataSpans, List.map_flatMap, List.flatMap_def, List.sum_flatten, List.map_map]
    simp [Function.comp_def, bitSpans_intervals]
  rw [schedule_eq, List.map_cons, List.map_cons, List.sum_cons, List.sum_cons, bits]
  rfl

theorem constructedLength_eq (c : Config) (w : BitVec 24) : constructedLength c w = 220 * ival c := by
  calc constructedLength c w
    _ = ((schedule w).map fun s => s.intervals * (2 * ival c)).sum := by
      simp only [constructedLength, Nat.mul_assoc, Nat.mul_left_comm]
    _ = ((schedule w).map Span.intervals).sum * (2 * ival c) :=
      List.sum_map_mul_right _ Span.intervals _
    _ = 220 * ival c := by rw [schedule_intervals]; omega

theorem constructedLength_eq_frameLen (c : Config) (w : BitVec 24) : constructedLength c w = frameLen c := by
  rw [constructedLength_eq, frameLen_eq]

/-- Settles O37: the lengths agree, so a request is dropped at a full queue or queued (`execTxReq_cases`). -/
theorem constructionCheckNeverFails : Obligations.ConstructionCheckNeverFails := by
  refine ⟨fun c w => ⟨schedule_length w, schedule_intervals w, constructedLength_eq c w,
    constructedLength_eq_frameLen c w⟩, fun cv s t a b next => ?_⟩
  change execTxReq cv s = .next t at next
  obtain ⟨-, dropped⟩ | ⟨-, differ, -⟩ | ⟨-, -, queued⟩ := execTxReq_cases cv s
  · rw [dropped] at next; cases next
    simp
  · exact absurd (constructedLength_eq_frameLen s.cfg _) differ
  · rw [queued] at next; cases next
    simp

/-! ## Rule R172: the rendering -/

/-- Settles O38, by `frame_eq_renderSchedule`; `FRAME(cv)` lists the closed form over `FRAME_LEN`. -/
theorem closedFormRendersTheSchedule : Obligations.ClosedFormRendersTheSchedule := by
  intro c cv
  refine ⟨(frame_eq_renderSchedule c cv).symm, (frame_length c cv).trans (frameLen_eq c), fun b inside => ?_⟩
  rw [frame, frameSlice, List.getElem?_map, List.getElem?_range inside, Option.map_some, Nat.zero_add]

/-! ## Rule R176: a frame, a gap, a HIGH -/

/-- The bit loop reads two pulses a turn, and leaves what stands behind them as it is (rule R149). -/
theorem readBits_append (c : Config) : ∀ (k : Nat) (w : BitVec 24) (ps qs : List Pulse), 2 * k ≤ ps.length →
    readBits c k w (ps ++ qs) = ((readBits c k w ps).1 ++ qs, (readBits c k w ps).2)
  | 0, _, _, _, _ => rfl
  | _ + 1, _, [], _, enough => by simp at enough
  | _ + 1, _, [_], _, enough => by simp at enough; omega
  | k + 1, w, l :: h :: rest, qs, enough => by
    have enough' : 2 * k ≤ rest.length := by simp at enough; omega
    rw [List.cons_append, List.cons_append, readBits_succ, readBits_succ]
    cases bitOf c h.n.toNat with
    | some b => exact readBits_append c k _ rest qs enough'
    | none => rfl

/-- An attempt on a sync LOW and 48 pulses does not read the last of them. -/
theorem decodeAttempt_append_last {c : Config} {sync : Pulse} {ps : List Pulse} (low : sync.lvl = .low)
    (long : isLong c sync.n.toNat = true) (count : ps.length = 47) (last : Pulse) :
    decodeAttempt c (sync :: ps ++ [last]) =
      ((readBits c 24 0#24 (sync :: ps)).1 ++ [last], (readBits c 24 0#24 (sync :: ps)).2) := by
  rw [← readBits_append c 24 0#24 (sync :: ps) [last] (by rw [List.length_cons, count]), List.cons_append,
    decodeAttempt_of_sync low long (by rw [List.length_append, count, List.length_singleton])]

section Gap
variable {c : Config} (legal : c.legal = true) (fast : 23438 ≤ c.fs)
include legal fast

/-- A frame's runs decode whatever stands for the last LOW, which stays behind unread. -/
theorem decodeAttempt_frameRuns_dropLast (v : BitVec 4) (last : Pulse) :
    decodeAttempt c ((frameRuns c (frameWord c v)).dropLast ++ [last]) = ([last], some (.decoded c.deviceId v)) := by
  have sync : isLong c (BitVec.ofNat 32 (nClamp c)).toNat = true := by
    rw [toNat_ofNat_nClamp legal, isLong_eq, decide_eq_true_iff]
  have count : ((dataSpans (frameWord c v)).map (Span.pulse c)).dropLast.length = 47 := by
    rw [List.length_dropLast, List.length_map, dataSpans_length]
  have nonempty : (dataSpans (frameWord c v)).map (Span.pulse c) ≠ [] :=
    List.ne_nil_of_length_pos (by rw [List.length_map, dataSpans_length]; decide)
  have attempt := decodeAttempt_append_last (sync := ⟨.low, BitVec.ofNat 32 (nClamp c)⟩) rfl sync count
  rw [← List.dropLast_cons_of_ne_nil nonempty, ← frameRuns] at attempt
  have kept : (frameRuns c (frameWord c v)).dropLast.length = 48 := by rw [List.length_dropLast, frameRuns_length]
  have decoded := decodeAttempt_frameRuns legal fast v
  rw [← List.dropLast_append_getLast? _ (frameRuns_getLast? c v), attempt, List.drop_left' kept] at decoded
  obtain ⟨consumed, report⟩ := Prod.mk.inj decoded
  rw [attempt, report, List.append_left_eq_self.mp consumed, List.nil_append]

/-- `FRAME(v)` and a gap that its last LOW run goes on through without getting LONG. -/
theorem receive_frame_gap (v : BitVec 4) {z : Nat} (short : lastLowRun c v + z < nClamp c) (r : RxPath) :
    receive c (samplesOf (frame c v ++ levelSamples .low z)) r =
      (⟨.low, BitVec.ofNat 32 (lastLowRun c v + z), (frameRuns c (frameWord c v)).dropLast⟩,
        (receive c (frameHead c) r).2) := by
  obtain ⟨runs, reports⟩ := receive_frame legal fast v r
  obtain ⟨low, run⟩ := last_run_of_runs_eq legal fast runs
  have buffered : (receive c (samplesOf (frame c v)) r).1.pbuf = (frameRuns c (frameWord c v)).dropLast := by
    rw [← runs, RxPath.runs, List.dropLast_concat]
  have gap := receive_run_short c legal (List.replicate z (levelSample .low)) (receive c (samplesOf (frame c v)) r).1
    (by rw [low]; exact level_of_mem_replicate) (by rw [run, List.length_replicate]; exact short)
  rw [samplesOf_append _ _ (frame_length_even c v), samplesOf_levelSamples, receive_append, gap, reports, low, run,
    buffered, List.length_replicate, List.append_nil]

end Gap

/-- Settles O50: the gap lengthens the frame's last LOW run (`receive_frame_gap`), and the attempt of the HIGH sample
decodes the frame's runs and leaves that LOW (`decodeAttempt_frameRuns_dropLast`). -/
theorem transmittedFrameIsDecoded : Obligations.TransmittedFrameIsDecoded := by
  intro c v r z p legal fast inTime high start whole
  obtain ⟨clamp, -⟩ := nClamp_lt c legal
  have frameAndGap := receive_frame_gap legal fast v (z := z) (by omega) r
  have head : start = receive c (frameHead c) r := by simp only [start, samplesOf_take_frame legal]
  rw [head, receive_append, frameAndGap, receive_cons, sampleStep_change c p _ (by rw [high]; exact nofun), high,
    changeLevel, decodeAttempt_frameRuns_dropLast legal fast]
  exact ⟨rfl, rfl⟩

end Sys2Proof.Machine
end

section
/-! SUPPORT. The stream feeder (`44_stream_feeder.md`): what one pull returns and leaves pending, the requests queued
behind it, the stream of bytes both make, and the obligations about them. -/

namespace Sys2Proof.Machine

/-! ## Rules R192 and R196: a pull that returns nothing -/

theorem feedPull_zero (c : Config) (x : TxPath) : feedPull c 0 x = ([], x) := by
  simp [feedPull, feedQueue_zero]

theorem feedPull_empty (c : Config) (n : Nat) {x : TxPath} (empty : x.txq = []) : feedPull c n x = ([], x) := by
  obtain ⟨txq, off⟩ := x
  obtain rfl : txq = [] := empty
  simp [feedPull, feedQueue_nil]

/-- Settles O43: such a pull writes no byte (`feedPull_zero`, `feedPull_empty`), so that the reply is the host's buffer
from its first byte on. -/
theorem emptyPullLeavesTheBuffer : Obligations.EmptyPullLeavesTheBuffer := fun s len nothing => by
  have feed : feedPull s.cfg len.toNat s.tx = ([], s.tx) := by
    obtain rfl | empty := nothing
    · exact feedPull_zero s.cfg s.tx
    · exact feedPull_empty s.cfg len.toNat empty
  rw [exec_txPull, State.pulled, feed]
  rfl

/-! ## Rules R191 and R195: the bytes of one pull -/

theorem pendingBytes_length (c : Config) (x : TxPath) :
    (pendingBytes c x).length = x.txq.length * frameLen c - x.off.toNat := by
  rw [pendingBytes, List.length_drop, flatMap_frame_length]

/-- Settles O42: a pull cuts the pending bytes in two (`TxInv.feedPull_bytes`, `TxInv.pendingBytes_feedPull`), and
both amounts are lengths of pending bytes (`pendingBytes_length`). -/
theorem pullReturnsTheNextPendingBytes : Obligations.PullReturnsTheNextPendingBytes := fun s len legal inv => by
  have written := inv.feedPull_bytes legal len.toNat
  have left := inv.pendingBytes_feedPull legal len.toNat
  obtain ⟨-, sent, dequeued⟩ := feedQueue_keeps legal s.tx.txq s.tx.off.toNat len.toNat inv.cursorInside
  refine ⟨_, _, exec_txPull len s, written, ?_, ?_, left, ⟨sent, dequeued.symm⟩, inv.feedPull legal len.toNat⟩
  · rw [written, List.length_take, pendingBytes_length]
  · rw [← pendingBytes_length, ← pendingBytes_length, left, written, List.length_drop, List.length_take]
    omega

/-! ## Rule R193: a request goes behind the pending bytes -/

theorem exec_txReq_of_room {s : State} (room : s.txqFull = false) (cv : BitVec 4) :
    exec (.txReq cv) s = .next (s.enqueue cv) := by
  change execTxReq cv s = _
  obtain ⟨full, -⟩ | ⟨-, differ, -⟩ | ⟨-, -, queued⟩ := execTxReq_cases cv s
  · rw [room] at full; cases full
  · exact absurd (constructedLength_eq_frameLen s.cfg _) differ
  · exact queued

theorem txqFull_of_unbounded {s : State} (unbounded : s.cfg.txqDepth = .unbounded) : s.txqFull = false := by
  rw [State.txqFull, unbounded]

/-- The cursor is within the bytes of the queued frames (rule R29). -/
theorem TxInv.off_le {c : Config} {x : TxPath} (h : TxInv c x) : x.off.toNat ≤ x.txq.length * frameLen c := by
  by_cases empty : x.txq = []
  · rw [h.offZeroWhenEmpty empty]; exact Nat.zero_le _
  · calc x.off.toNat ≤ frameLen c := (h.offInsideFrame empty).le
      _ ≤ x.txq.length * frameLen c := Nat.le_mul_of_pos_left _ (List.length_pos_of_ne_nil empty)

theorem TxInv.pendingBytes_enqueue {s : State} (h : TxInv s.cfg s.tx) (cv : BitVec 4) :
    pendingBytes s.cfg (s.enqueue cv).tx = pendingBytes s.cfg s.tx ++ frame s.cfg cv := by
  have inside : s.tx.off.toNat ≤ (s.tx.txq.flatMap (frame s.cfg)).length := by
    rw [flatMap_frame_length]; exact h.off_le
  rw [pendingBytes, State.enqueue_tx, List.flatMap_append, List.drop_append_of_le_length inside, List.flatMap_singleton]
  rfl

/-! ## Rule R194: the stream of sent and pending bytes -/

/-- The bytes sent so far, then those still pending. -/
def State.txStream (s : State) : List Byte := s.txData.flatMap TxReply.bytes ++ pendingBytes s.cfg s.tx

/-- From `s` to `t` the stream of sent and pending bytes grew at its end, by `requested`; no reply was taken back. -/
structure ExtendsStream (s t : State) (requested : List Byte) : Prop where
  cfg : t.cfg = s.cfg
  txInv : TxInv t.cfg t.tx
  txData : s.txData <+: t.txData
  stream : t.txStream = s.txStream ++ requested

theorem ExtendsStream.of_tx_unchanged {s t : State} (inv : TxInv s.cfg s.tx) (cfg : t.cfg = s.cfg)
    (tx : t.tx = s.tx) (txData : t.txData = s.txData) : ExtendsStream s t [] where
  cfg := cfg
  txInv := by rwa [cfg, tx]
  txData := by rw [txData]
  stream := by rw [State.txStream, cfg, tx, txData, List.append_nil, State.txStream]

theorem ExtendsStream.trans {s t u : State} {a b : List Byte} (first : ExtendsStream s t a)
    (next : ExtendsStream t u b) : ExtendsStream s u (a ++ b) where
  cfg := next.cfg.trans first.cfg
  txInv := next.txInv
  txData := first.txData.trans next.txData
  stream := by rw [next.stream, first.stream, List.append_assoc]

/-- The replies that are new in `t`, with what is pending there. -/
theorem ExtendsStream.replies {s t : State} {requested : List Byte} (h : ExtendsStream s t requested) :
    ∃ rs, t.txData = s.txData ++ rs ∧
      rs.flatMap TxReply.bytes ++ pendingBytes t.cfg t.tx = pendingBytes s.cfg s.tx ++ requested := by
  obtain ⟨rs, data⟩ := h.txData
  have stream := h.stream
  simp only [State.txStream, ← data, List.flatMap_append, List.append_assoc] at stream
  exact ⟨rs, data.symm, List.append_cancel_left stream⟩

theorem TxInv.enqueue_extendsStream {s : State} (h : TxInv s.cfg s.tx) (legal : s.cfg.legal = true)
    (room : s.txqFull = false) (cv : BitVec 4) : ExtendsStream s (s.enqueue cv) (frame s.cfg cv) where
  cfg := rfl
  txInv := h.enqueue legal room cv
  txData := List.prefix_rfl
  stream := by
    rw [State.txStream, State.enqueue_cfg, h.pendingBytes_enqueue, State.enqueue_txData, ← List.append_assoc,
      State.txStream]

/-- A pull moves bytes from the pending ones to the sent ones (rule R195). -/
theorem TxInv.pulled_extendsStream {s : State} (h : TxInv s.cfg s.tx) (legal : s.cfg.legal = true) (n : Nat) :
    ExtendsStream s (s.pulled n) [] where
  cfg := rfl
  txInv := h.feedPull legal n
  txData := List.prefix_append _ _
  stream := by
    rw [State.txStream, State.pulled_cfg, State.pulled_tx, h.pendingBytes_feedPull legal, State.pulled_txData,
      List.flatMap_append, List.flatMap_singleton, h.feedPull_bytes legal, List.append_assoc, List.take_append_drop,
      List.append_nil, State.txStream]

/-- A burst completes and leaves the transmit path alone (rule R215). -/
theorem exec_rxBurst_keeps_tx (len : BitVec 24) (s : State) :
    ∃ t, exec (.rxBurst len) s = .next t ∧ t.cfg = s.cfg ∧ t.tx = s.tx ∧ t.txData = s.txData := by
  obtain ⟨-, e⟩ | ⟨-, -, e⟩ | ⟨-, -, e⟩ := execRxBurst_cases len s
  all_goals exact ⟨_, e, rfl, rfl, rfl⟩

/-- An operation that does not reset the transmit path completes, and extends the stream by the frame it requests. -/
theorem exec_extendsStream {s : State} (legal : s.cfg.legal = true) (unbounded : s.cfg.txqDepth = .unbounded)
    (inv : TxInv s.cfg s.tx) {i : Instr} (keeps : resetsTx i = false) :
    ∃ t, exec i s = .next t ∧ ExtendsStream s t (requestedBytes s.cfg [i]) := by
  cases i with
  | nop => exact ⟨s, rfl, .of_tx_unchanged inv rfl rfl rfl⟩
  | rstRx => exact ⟨s.resetRx, rfl, .of_tx_unchanged inv rfl rfl rfl⟩
  | rstTx | rstAll => cases keeps
  | rxBurst len =>
    obtain ⟨t, run, cfg, tx, data⟩ := exec_rxBurst_keeps_tx len s
    exact ⟨t, run, .of_tx_unchanged inv cfg tx data⟩
  | txReq cv =>
    have room := txqFull_of_unbounded unbounded
    have request : requestedBytes s.cfg [.txReq cv] = frame s.cfg cv := List.append_nil _
    rw [request]
    exact ⟨_, exec_txReq_of_room room cv, inv.enqueue_extendsStream legal room cv⟩
  | txPull len => exact ⟨_, exec_txPull len s, inv.pulled_extendsStream legal len.toNat⟩

theorem requestedBytes_cons (c : Config) (i : Instr) (is : List Instr) :
    requestedBytes c (i :: is) = requestedBytes c [i] ++ requestedBytes c is := by
  cases i with
  | txReq cv => simp [requestedBytes]
  | nop | rstRx | rstTx | rstAll | rxBurst | txPull => rfl

theorem execAll_extendsStream {c : Config} (legal : c.legal = true) (unbounded : c.txqDepth = .unbounded)
    (is : List Instr) :
    ∀ s : State, s.cfg = c → TxInv c s.tx → (∀ i ∈ is, resetsTx i = false) →
      ∃ t, execAll is s = .next t ∧ ExtendsStream s t (requestedBytes c is) := by
  induction is with
  | nil =>
    rintro s rfl inv -
    exact ⟨s, rfl, .of_tx_unchanged inv rfl rfl rfl⟩
  | cons i is ih =>
    rintro s rfl inv keeps
    obtain ⟨keeps_head, keeps_tail⟩ := List.forall_mem_cons.mp keeps
    obtain ⟨t, run, first⟩ := exec_extendsStream legal unbounded inv keeps_head
    obtain ⟨u, run_rest, rest⟩ := ih t first.cfg (first.cfg ▸ first.txInv) keeps_tail
    rw [requestedBytes_cons, execAll_cons_of_next is run]
    exact ⟨u, run_rest, first.trans rest⟩

/-- Settles O45: every operation extends the stream by what it requests (`exec_extendsStream`), and the replies before
the run cancel (`ExtendsStream.replies`). -/
theorem sentBytesAreTheRequestedFrames : Obligations.SentBytesAreTheRequestedFrames :=
  fun s is legal unbounded inv keeps => by
    obtain ⟨t, run, extended⟩ := execAll_extendsStream legal unbounded is s rfl inv keeps
    obtain ⟨rs, data, bytes⟩ := extended.replies
    exact ⟨t, rs, run, data, extended.cfg, bytes⟩

end Sys2Proof.Machine
end

section
/-! SUPPORT. The operations (`45_operations.md`): the decoded operation of a step, the resets, a burst and a request
with room, what an input line asks for, and the cuts of a callback's buffer; and the obligations about them. -/

namespace Sys2Proof.Machine

/-! ## Rules R210 to R216: the operations -/

theorem State.operandsHere_iff (s : State) (i : Instr) :
    s.operandsHere i = true ↔ ∀ len, i = .rxBurst len → len.toNat ≤ s.rxData.length := by
  cases i with
  | nop | rstRx | rstTx | rstAll | txReq | txPull => simp [State.operandsHere]
  | rxBurst len => simp [State.operandsHere, State.rxHolds]

/-- Settles O1: the operation's data is there (`State.operandsHere_iff`), so the step runs it. -/
theorem stepRunsDecodedOperation : Obligations.StepRunsDecodedOperation := fun s _ ws i legal next decodes bytesHere =>
  step_eq_exec legal next decodes ((State.operandsHere_iff { s with cmds := ws } i).mpr bytesHere)

/-- Settles O18: a word that decodes to NOP is NOP's encoding (`encode_of_decode`). -/
theorem nopChangesNothing : Obligations.NopChangesNothing := by
  refine ⟨fun _ => rfl, fun w => ⟨fun decodes => (encode_of_decode decodes).symm, ?_⟩⟩
  rintro rfl
  exact decode_encode .nop

/-- Settles O19: the reset values `RxPath.reset` and `TxPath.reset` are those the statement writes out. -/
theorem resetOperationsResetTheirPaths : Obligations.ResetOperationsResetTheirPaths := fun _ => ⟨rfl, rfl, rfl⟩

/-- Settles O26: an even burst is `State.runReceive` over its bytes, which goes sample by sample (`receive_cons`). -/
theorem evenBurstRunsItsSamples : Obligations.EvenBurstRunsItsSamples :=
  ⟨fun _ _ here even => exec_rxBurst_even here even,
    fun c bi bq rest r => receive_cons c ⟨s8 bi, s8 bq⟩ (samplesOf rest) r⟩

/-- Settles O40: either way the queue has room, and the construction check passes (`exec_txReq_of_room`). -/
theorem requestIsQueuedAtTheTail : Obligations.RequestIsQueuedAtTheTail := fun s cv roomLeft => by
  have room : s.txqFull = false := by
    obtain unbounded | ⟨d, depth, below⟩ := roomLeft
    · exact txqFull_of_unbounded unbounded
    · simp [State.txqFull, depth, below]
  exact exec_txReq_of_room room cv

/-! ## Rules R220 and R247: an input line -/

theorem hexDigit_eq_some_iff (ch : Char) (cv : BitVec 4) :
    hexDigit ch = some cv ↔
      (cv.toNat ≤ 9 ∧ ch.toNat = 48 + cv.toNat) ∨
      (10 ≤ cv.toNat ∧ (ch.toNat = 55 + cv.toNat ∨ ch.toNat = 87 + cv.toNat)) := by
  have bound := cv.isLt
  unfold hexDigit
  dsimp only
  split_ifs with decimal upper lower
  · rw [Option.some_inj, ← BitVec.toNat_inj, BitVec.toNat_ofNat]; omega
  · rw [Option.some_inj, ← BitVec.toNat_inj, BitVec.toNat_ofNat]; omega
  · rw [Option.some_inj, ← BitVec.toNat_inj, BitVec.toNat_ofNat]; omega
  · simp only [false_iff]; omega

/-- Only a terminator is taken off a line. -/
theorem eq_stripTerminator_append (line : List Char) :
    ∃ terminator ∈ [[], ['\n'], ['\r', '\n']], line = stripTerminator line ++ terminator := by
  unfold stripTerminator
  split
  next rest reversed => exact ⟨['\r', '\n'], by simp, by simpa using congrArg List.reverse reversed⟩
  next rest _ reversed => exact ⟨['\n'], by simp, by simpa using congrArg List.reverse reversed⟩
  next => exact ⟨[], by simp⟩

theorem lineRequest_eq_some_iff_stripTerminator (line : List Char) (cv : BitVec 4) :
    lineRequest line = some cv ↔ ∃ ch, hexDigit ch = some cv ∧ stripTerminator line = [ch] := by
  unfold lineRequest
  split
  next ch stripped => simp [stripped]
  next other => simpa using fun ch _ => other ch

theorem stripTerminator_digit {ch : Char} (digit : (hexDigit ch).isSome) :
    stripTerminator [ch] = [ch] ∧ stripTerminator [ch, '\n'] = [ch] ∧ stripTerminator [ch, '\r', '\n'] = [ch] := by
  have notLf : ch ≠ '\n' := by rintro rfl; exact absurd digit (by decide)
  have notCr : ch ≠ '\r' := by rintro rfl; exact absurd digit (by decide)
  simp [stripTerminator, notLf, notCr]

/-- A line asks for `cv` when it is the digit with or without a terminator. -/
theorem lineRequest_eq_some_iff (line : List Char) (cv : BitVec 4) :
    lineRequest line = some cv ↔
      ∃ ch, hexDigit ch = some cv ∧ (line = [ch] ∨ line = [ch, '\n'] ∨ line = [ch, '\r', '\n']) := by
  rw [lineRequest_eq_some_iff_stripTerminator]
  refine exists_congr fun ch => and_congr_right fun digit => ⟨fun stripped => ?_, ?_⟩
  · obtain ⟨terminator, isTerminator, cut⟩ := eq_stripTerminator_append line
    rw [stripped] at cut
    simpa [cut] using isTerminator
  · obtain ⟨bare, lf, crLf⟩ := stripTerminator_digit (Option.isSome_of_mem digit)
    rintro (rfl | rfl | rfl)
    · exact bare
    · exact lf
    · exact crLf

/-- Settles O53: the digit values, the terminators, and the one command of a request. -/
theorem inputLineIsOneHexDigit : Obligations.InputLineIsOneHexDigit := by
  refine ⟨hexDigit_eq_some_iff, lineRequest_eq_some_iff, fun line => ⟨fun cv request => ?_, fun noRequest => ?_⟩⟩
  · rw [inputLine, request]
  · rw [inputLine, noRequest]

/-! ## Rules R222 and R223: a callback's buffer -/

theorem cutInto_succ (size fuel : Nat) (l : List Byte) :
    cutInto size (fuel + 1) l = if l.length ≤ size then [l] else l.take size :: cutInto size fuel (l.drop size) := rfl

theorem cutInto_of_length_le {size fuel : Nat} {l : List Byte} (fits : l.length ≤ size) :
    cutInto size (fuel + 1) l = [l] := if_pos fits

/-- With fuel for enough parts, the parts put together are the list. -/
theorem cutInto_flatten {size : Nat} : ∀ {fuel : Nat} {l : List Byte}, l.length ≤ fuel * size →
    (cutInto size fuel l).flatten = l
  | 0, l, enough => by
    have empty : l = [] := List.length_eq_zero_iff.mp (by omega)
    rw [empty]; rfl
  | fuel + 1, l, enough => by
    rw [cutInto_succ]
    split
    · exact List.flatten_singleton
    · have enough_rest : (l.drop size).length ≤ fuel * size := by
        rw [Nat.succ_mul] at enough; rw [List.length_drop]; omega
      rw [List.flatten_cons, cutInto_flatten enough_rest, List.take_append_drop]

theorem length_le_of_mem_cutInto {size : Nat} {p : List Byte} : ∀ {fuel : Nat} {l : List Byte},
    p ∈ cutInto size fuel l → p.length ≤ size
  | 0, _, mem => by simp [cutInto] at mem
  | fuel + 1, l, mem => by
    rw [cutInto_succ] at mem
    split at mem
    next fits => rwa [List.mem_singleton.mp mem]
    next =>
      obtain rfl | rest := List.mem_cons.mp mem
      · exact List.length_take_le size l
      · exact length_le_of_mem_cutInto rest

/-- Each part but the last is a full one. -/
theorem length_eq_of_mem_dropLast_cutInto {size : Nat} {p : List Byte} : ∀ {fuel : Nat} {l : List Byte},
    p ∈ (cutInto size fuel l).dropLast → p.length = size
  | 0, _, mem => by simp [cutInto] at mem
  | fuel + 1, l, mem => by
    rw [cutInto_succ] at mem
    split at mem
    next => simp at mem
    next long =>
      by_cases last : cutInto size fuel (l.drop size) = []
      · simp [last] at mem
      · rw [List.dropLast_cons_of_ne_nil last] at mem
        obtain rfl | rest := List.mem_cons.mp mem
        · exact List.length_take_of_le (by omega)
        · exact length_eq_of_mem_dropLast_cutInto rest

section Part
variable {part : List Byte} (fits : part.length ≤ 16777215)
include fits

theorem toNat_ofNat_length : (BitVec.ofNat 24 part.length).toNat = part.length :=
  Nat.mod_eq_of_lt (by omega)

theorem burstCommand_wellFormed : (burstCommand part).wellFormed = true := by
  simp [burstCommand, Command.wellFormed, toNat_ofNat_length fits]

theorem pullCommand_wellFormed : (pullCommand part).wellFormed = true := by
  simp [pullCommand, Command.wellFormed, toNat_ofNat_length fits]

end Part

/-- A receive buffer longer than one word can name is cut at 16777214 bytes, an even number. -/
theorem exists_burstParts (buffer : List Byte) :
    ∃ parts, receiveCallback buffer = parts.map burstCommand ∧ parts.flatten = buffer ∧
      (∀ p ∈ parts, p.length ≤ 16777215) ∧ (∀ p ∈ parts.dropLast, p.length % 2 = 0) ∧
      (buffer.length ≤ 16777215 → parts = [buffer]) := by
  by_cases fits : buffer.length ≤ 16777215
  · exact ⟨[buffer], if_pos fits, List.flatten_singleton, by simpa using fits, by simp, fun _ => rfl⟩
  · refine ⟨cutInto (maxLen - 1) buffer.length buffer, if_neg fits, ?_, fun p mem => ?_, fun p mem => ?_,
      fun short => absurd short fits⟩
    · exact cutInto_flatten (Nat.le_mul_of_pos_right _ (by decide))
    · exact (length_le_of_mem_cutInto mem).trans (Nat.sub_le _ 1)
    · rw [length_eq_of_mem_dropLast_cutInto mem]; rfl

theorem exists_pullParts (buffer : List Byte) :
    ∃ parts, transmitCallback buffer = parts.map pullCommand ∧ parts.flatten = buffer ∧
      (∀ p ∈ parts, p.length ≤ 16777215) ∧ (buffer.length ≤ 16777215 → parts = [buffer]) :=
  have enough : buffer.length ≤ (buffer.length + 1) * maxLen :=
    (Nat.le_succ _).trans (Nat.le_mul_of_pos_right _ (by decide))
  ⟨_, rfl, cutInto_flatten enough, fun _ => length_le_of_mem_cutInto, cutInto_of_length_le⟩

/-- Settles O54: the cuts of `exists_burstParts` and `exists_pullParts`, whose parts one word can name. -/
theorem callbacksIssueTheWholeBuffer : Obligations.CallbacksIssueTheWholeBuffer := fun buffer => by
  obtain ⟨bursts, received, wholeRx, lenRx, even, oneRx⟩ := exists_burstParts buffer
  obtain ⟨pulls, transmitted, wholeTx, lenTx, oneTx⟩ := exists_pullParts buffer
  exact ⟨⟨bursts, received, wholeRx, fun p mem => ⟨lenRx p mem, burstCommand_wellFormed (lenRx p mem)⟩, even, oneRx⟩,
    pulls, transmitted, wholeTx, fun p mem => ⟨lenTx p mem, pullCommand_wellFormed (lenTx p mem)⟩, oneTx⟩

end Sys2Proof.Machine
end

section
/-! SUPPORT. The errors (`60_exceptions.md`): what is reported in place of an operation's effect, that no error stops
the core, and that no operation of one path reads or writes the other's state; and the obligations about them. -/

namespace Sys2Proof.Machine

/-! ## Rules R242, R245 and R246: what is refused, and the report -/

/-- A step reports a word that encodes no operation (rules R218, R245). -/
theorem step_eq_refuseWord {s : State} {w : Word} {ws : List Word} {e : DecodeError} (legal : s.cfg.legal = true)
    (next : s.cmds = w :: ws) (refused : decode w = .error e) :
    step s = .next (({ s with cmds := ws } : State).refuseWord w) := by
  simp [step, State.hasRun, State.fetch, legal, next, refused]

/-- Settles O3: the decoder refuses a word of no row (`decode_error_iff_noRow`), and then the step only reports it. -/
theorem illegalWordIsReported : Obligations.IllegalWordIsReported := fun _ w _ legal next noRow => by
  obtain ⟨_, refused⟩ := (decode_error_iff_noRow w).mpr noRow
  exact step_eq_refuseWord legal next refused

/-- Settles O27: taking the bytes and reporting their number is all an odd burst does (`exec_rxBurst_odd`). -/
theorem oddBurstIsRefusedWhole : Obligations.OddBurstIsRefusedWhole := fun _ _ here odd => exec_rxBurst_odd here odd

theorem exec_txReq_of_full {s : State} (full : s.txqFull = true) (cv : BitVec 4) :
    exec (.txReq cv) s = .next (s.emit (.txqFull cv)) := by
  change execTxReq cv s = _
  rw [execTxReq, if_pos full]

/-- Settles O41: the queue's depth decides between `exec_txReq_of_full` and `exec_txReq_of_room`, and a request that is
queued reports nothing. -/
theorem requestOnFullQueueIsDropped : Obligations.RequestOnFullQueueIsDropped := by
  constructor
  · intro s cv d depth atDepth
    have full : s.txqFull = true := by simp [State.txqFull, depth, atDepth]
    exact exec_txReq_of_full full cv
  · intro s t cv unbounded next
    rw [exec_txReq_of_room (txqFull_of_unbounded unbounded)] at next
    cases next
    exact s.enqueue_evs cv

/-! ## Rule R240: no error stops the core -/

theorem exec_completes (i : Instr) (s : State) : ∃ t, exec i s = .next t := by
  cases i with
  | nop | rstRx | rstTx | rstAll | txPull => exact ⟨_, rfl⟩
  | rxBurst len =>
    obtain ⟨t, next, -⟩ := exec_rxBurst_keeps_tx len s
    exact ⟨t, next⟩
  | txReq cv =>
    cases queue : s.txqFull with
    | true => exact ⟨_, exec_txReq_of_full queue cv⟩
    | false => exact ⟨_, exec_txReq_of_room queue cv⟩

/-- Settles O5: where a step does not wait or report, it is an operation, which completes (`exec_completes`). -/
theorem noErrorStopsTheCore : Obligations.NoErrorStopsTheCore := by
  refine ⟨fun s legal => ?_, exec_completes⟩
  obtain ⟨-, idle⟩ | ⟨_, _, _, -, -, -, waits⟩ | ⟨_, _, i, -, -, -, runs⟩ | ⟨_, _, _, -, -, reports⟩ :=
    step_cases s legal
  · exact ⟨_, idle⟩
  · exact ⟨_, waits⟩
  · rw [runs]
    exact exec_completes i _
  · exact ⟨_, reports⟩

/-! ## Rule R255: the paths share no state -/

/-- A burst waits while its bytes are not all on the channel (assumption 3). -/
theorem exec_rxBurst_of_short {len : BitVec 24} {s : State} (short : s.rxData.length < len.toNat) :
    exec (.rxBurst len) s = .next s := by
  change execRxBurst len s = _
  obtain ⟨-, waits⟩ | ⟨here, -⟩ | ⟨here, -⟩ := execRxBurst_cases len s
  · exact waits
  · omega
  · omega

/-- The state after an operation of the receive path: `r` and `d` are left on the path and its channel, `es` is
reported. -/
def State.afterRxOp (s : State) (r : RxPath) (d : List Byte) (es : List Event) : State :=
  { s with rx := r, rxData := d, evs := s.evs ++ es }

/-- The state after an operation of the transmit path: `x` and `bufs` are left on the path and its channel, `es` is
reported and `rs` returned. -/
def State.afterTxOp (s : State) (x : TxPath) (bufs : List (List Byte)) (es : List Event) (rs : List TxReply) : State :=
  { s with tx := x, txBufs := bufs, evs := s.evs ++ es, txData := s.txData ++ rs }

/-- What an operation of the receive path leaves and reports is the same at every state with the configuration, the
receive path and the RX data of `s`. -/
theorem exec_rxOp {i : Instr} (rxOp : isRxOp i = true) (s : State) :
    ∃ r d es, ∀ s' : State, s.cfg = s'.cfg → s.rx = s'.rx → s.rxData = s'.rxData →
      exec i s' = .next (s'.afterRxOp r d es) := by
  cases i with
  | nop | rstTx | rstAll | txReq | txPull => cases rxOp
  | rstRx =>
    refine ⟨.reset, s.rxData, [], fun s' _ _ data => ?_⟩
    rw [State.afterRxOp, List.append_nil, data]
    rfl
  | rxBurst len =>
    obtain short | here := lt_or_ge s.rxData.length len.toNat
    · refine ⟨s.rx, s.rxData, [], fun s' _ path data => ?_⟩
      rw [exec_rxBurst_of_short (data ▸ short), State.afterRxOp, List.append_nil, path, data]
    · obtain even | odd := Nat.mod_two_eq_zero_or_one len.toNat
      · refine ⟨(receive s.cfg (samplesOf (s.rxData.take len.toNat)) s.rx).1, s.rxData.drop len.toNat,
          (receive s.cfg (samplesOf (s.rxData.take len.toNat)) s.rx).2, fun s' cfg path data => ?_⟩
        rw [exec_rxBurst_even (data ▸ here) even, cfg, path, data]
        rfl
      · refine ⟨s.rx, s.rxData.drop len.toNat, [.malformed len], fun s' _ path data => ?_⟩
        rw [exec_rxBurst_odd (data ▸ here) odd, path, data]
        rfl

theorem State.txqFull_congr {s s' : State} (cfg : s.cfg = s'.cfg) (path : s.tx = s'.tx) : s.txqFull = s'.txqFull := by
  rw [State.txqFull, State.txqFull, cfg, path]

/-- What an operation of the transmit path leaves, reports and returns is the same at every state with the
configuration, the transmit path and the host buffers of `s`. -/
theorem exec_txOp {i : Instr} (txOp : isTxOp i = true) (s : State) :
    ∃ x bufs es rs, ∀ s' : State, s.cfg = s'.cfg → s.tx = s'.tx → s.txBufs = s'.txBufs →
      exec i s' = .next (s'.afterTxOp x bufs es rs) := by
  cases i with
  | nop | rstRx | rstAll | rxBurst => cases txOp
  | rstTx =>
    refine ⟨.reset, s.txBufs, [], [], fun s' _ _ bufs => ?_⟩
    rw [State.afterTxOp, List.append_nil, List.append_nil, bufs]
    rfl
  | txReq cv =>
    cases queue : s.txqFull with
    | true =>
      refine ⟨s.tx, s.txBufs, [.txqFull cv], [], fun s' cfg path bufs => ?_⟩
      rw [exec_txReq_of_full (State.txqFull_congr cfg path ▸ queue), State.afterTxOp, List.append_nil, path, bufs]
      rfl
    | false =>
      refine ⟨(s.enqueue cv).tx, s.txBufs, [], [], fun s' cfg path bufs => ?_⟩
      rw [exec_txReq_of_room (State.txqFull_congr cfg path ▸ queue), State.afterTxOp, List.append_nil,
        List.append_nil, State.enqueue_tx, path, bufs]
      rfl
  | txPull len =>
    refine ⟨(s.pulled len.toNat).tx, s.txBufs.tail, [],
      [⟨(feedPull s.cfg len.toNat s.tx).1,
        (feedPull s.cfg len.toNat s.tx).1 ++ s.nextTxBuf.drop (feedPull s.cfg len.toNat s.tx).1.length⟩],
      fun s' cfg path bufs => ?_⟩
    rw [exec_txPull, State.afterTxOp, List.append_nil, State.pulled_tx, State.nextTxBuf, cfg, path, bufs]
    rfl

/-- Settles O49: `exec_rxOp` and `exec_txOp`, at `s` for what is left unchanged, and at `s` and `s'` for the same
effect. -/
theorem pathsShareNoState : Obligations.PathsShareNoState := by
  refine ⟨fun i s t rxOp next => ?_, fun i s t txOp next => ?_, fun i s s' t t' rxOp cfg path data next next' => ?_,
    fun i s s' t t' txOp cfg path bufs next next' => ?_⟩
  · obtain ⟨_, _, _, run⟩ := exec_rxOp rxOp s
    rw [run s rfl rfl rfl] at next
    cases next
    exact ⟨rfl, rfl, rfl⟩
  · obtain ⟨_, _, _, _, run⟩ := exec_txOp txOp s
    rw [run s rfl rfl rfl] at next
    cases next
    exact ⟨rfl, rfl⟩
  · obtain ⟨_, _, es, run⟩ := exec_rxOp rxOp s
    rw [run s rfl rfl rfl] at next
    rw [run s' cfg path data] at next'
    cases next
    cases next'
    exact ⟨rfl, rfl, es, rfl, rfl⟩
  · obtain ⟨_, _, es, rs, run⟩ := exec_txOp txOp s
    rw [run s rfl rfl rfl] at next
    rw [run s' cfg path bufs] at next'
    cases next
    cases next'
    exact ⟨rfl, rfl, ⟨es, rfl, rfl⟩, rs, rfl, rfl⟩

end Sys2Proof.Machine
end

section
/-! SUPPORT. The command channel (`70_reset_and_hazards.md`): when a step waits for its inputs; and the obligation about
it. -/

namespace Sys2Proof.Machine

/-! ## Rules R271 and R78: a step without its inputs -/

/-- The core waits for a command word (rule R271). -/
theorem step_eq_self_of_idle {s : State} (legal : s.cfg.legal = true) (idle : s.cmds = []) : step s = .next s := by
  simp [step, State.hasRun, State.fetch, legal, idle]

/-- The core waits for the decoded operation's data, and the word stays on the channel (assumption 3). -/
theorem step_eq_self_of_operandsMissing {s : State} {w : Word} {ws : List Word} {i : Instr}
    (legal : s.cfg.legal = true) (next : s.cmds = w :: ws) (decodes : decode w = .ok i)
    (missing : ({ s with cmds := ws } : State).operandsHere i = false) : step s = .next s := by
  simp [step, State.hasRun, State.fetch, legal, next, decodes, missing]

theorem State.operandsHere_rxBurst_of_short {s : State} {len : BitVec 24} (short : s.rxData.length < len.toNat) :
    s.operandsHere (.rxBurst len) = false :=
  decide_eq_false short.not_ge

/-- Settles O2: without a word the step has nothing to run; before a burst's bytes are there its data is missing
(`State.operandsHere_rxBurst_of_short`), whatever words follow it. -/
theorem stepWaitsForItsInputs : Obligations.StepWaitsForItsInputs :=
  ⟨fun _ => step_eq_self_of_idle, fun _ _ _ _ legal next decodes short =>
    step_eq_self_of_operandsMissing legal next decodes (State.operandsHere_rxBurst_of_short short)⟩

end Sys2Proof.Machine
end
